-- ==== Sys2Proof/Word.lean ====
section
/-! DEFINITION. The block's two plain value types (00_scope.md R12, R13): bytes of the key, digest and message, and the
32-bit words of the registers and of SHA-1. -/

namespace Sys2Proof

/-- An 8-bit byte, bit 0 least significant (R12). -/
abbrev Byte := BitVec 8

/-- A 32-bit word: a register, a command word or a SHA-1 word (R9, R12). -/
abbrev Word := BitVec 32

end Sys2Proof
end

