-- ==== Sys2Proof/Syntax.lean ====
section
/-! DEFINITION. The block's commands: one constructor per row of spec/opcode_table.json (30_encoding.md R83). -/

namespace Sys2Proof

/-- A command of the block (30_encoding.md R83). The only operand is the character of B32_CHAR (R82). -/
inductive Instr where
  /-- NOP, 0x00000000 (43_control.md R190). -/
  | nop
  /-- KEYCLR, 0x00000001 (40_base32.md R103). -/
  | keyclr
  /-- B32_CHAR, 0x0000cc02 with cc = `ch`, an unsigned 8-bit character code (R82, R104). -/
  | b32Char (ch : Byte)
  /-- B32_END, 0x00000003 (R105). -/
  | b32End
  /-- HMAC, 0x00000004 (41_hmac_sha1.md R140). -/
  | hmac
  /-- TRUNC, 0x00000005 (42_truncation.md R174). -/
  | trunc
  /-- TOTP, 0x00000006 (R175). -/
  | totp
  /-- SRESET, 0x0000000F (43_control.md R191). -/
  | sreset
deriving DecidableEq, Repr

end Sys2Proof
end

