-- ==== Sys2Proof/WellFormed.lean ====
section
/-! DEFINITION. What is well formed: a command, a command that may be in flight (20_memory.md R64), and a command word,
by the match/mask table of 30_encoding.md R83. -/

namespace Sys2Proof

/-- Every command is well formed: the one operand there is, the character of B32_CHAR, is 8 bits by its type and every
8-bit value is legal (30_encoding.md R82, R83). Written with one arm per constructor, so that a command with a
restricted operand could not slip past. -/
def Instr.wellFormed : Instr → Bool
  | .nop => true
  | .keyclr => true
  | .b32Char _ => true
  | .b32End => true
  | .hmac => true
  | .trunc => true
  | .totp => true
  | .sreset => true

/-- The commands that `issue` accepts into PEND: "NOP and SRESET are never in flight" (20_memory.md R63, R64). -/
def Instr.mayBeInFlight : Instr → Bool
  | .nop => false
  | .keyclr => true
  | .b32Char _ => true
  | .b32End => true
  | .hmac => true
  | .trunc => true
  | .totp => true
  | .sreset => false

/-- One row of the opcode map: a word selects the row when `v & mask = match` (30_encoding.md R83). -/
structure OpRow where
  pattern : Word
  mask : Word
deriving DecidableEq, Repr

/-- The opcode map of 30_encoding.md R83, in the table's order. -/
def opRows : List OpRow :=
  [⟨0x00000000, 0xFFFFFFFF⟩, ⟨0x00000001, 0xFFFFFFFF⟩, ⟨0x00000002, 0xFFFF00FF⟩, ⟨0x00000003, 0xFFFFFFFF⟩,
   ⟨0x00000004, 0xFFFFFFFF⟩, ⟨0x00000005, 0xFFFFFFFF⟩, ⟨0x00000006, 0xFFFFFFFF⟩, ⟨0x0000000F, 0xFFFFFFFF⟩]

/-- The word selects the row. -/
def OpRow.selects (r : OpRow) (v : Word) : Bool := v &&& r.mask == r.pattern

/-- No word selects both rows: they differ at a bit that both masks hold fixed. -/
def OpRow.disjoint (r q : OpRow) : Bool := (r.pattern ^^^ q.pattern) &&& (r.mask &&& q.mask) != 0

/-- The legal command words are exactly those that select a row (30_encoding.md R83). -/
def legalWord (v : Word) : Bool := opRows.any (·.selects v)

/-- A host access is legal when its width is 4 bytes and its offset is a multiple of 4 (20_memory.md R54). -/
def legalAccess (off n : Nat) : Bool := n == 4 && off % 4 == 0

end Sys2Proof
end

