-- ==== Sys2Proof/Decode.lean ====
section
/-! DEFINITION. The decoder of 30_encoding.md R84, total on every 32-bit word and rejecting by name, and after it the
encoder of R83 and R88. -/

namespace Sys2Proof

/-- Why a word is ILLEGAL: the three classes of 30_encoding.md R85. -/
inductive IllegalWord where
  /-- `v[31:16] != 0`. -/
  | reservedBits
  /-- `v[15:8] != 0` with an opcode other than B32_CHAR's. -/
  | dataNotZero
  /-- The opcode is 0x07 to 0x0E or 0x10 to 0xFF. -/
  | reservedOpcode
deriving DecidableEq, Repr

/-- The RSVD field, bits 31:16 (R81). -/
def rsvdField (v : Word) : BitVec 16 := v.extractLsb' 16 16

/-- The DATA field, bits 15:8 (R81). -/
def dataField (v : Word) : Byte := v.extractLsb' 8 8

/-- The OP field, bits 7:0 (R81). -/
def opField (v : Word) : Byte := v.extractLsb' 0 8

/-- `decode(v)` (30_encoding.md R84), with its tests in the rule's order. -/
def decode (v : Word) : Except IllegalWord Instr :=
  if rsvdField v ≠ 0 then .error .reservedBits
  else if opField v = 0x02 then .ok (.b32Char (dataField v))
  else if dataField v ≠ 0 then .error .dataNotZero
  else if opField v = 0x00 then .ok .nop
  else if opField v = 0x01 then .ok .keyclr
  else if opField v = 0x03 then .ok .b32End
  else if opField v = 0x04 then .ok .hmac
  else if opField v = 0x05 then .ok .trunc
  else if opField v = 0x06 then .ok .totp
  else if opField v = 0x0F then .ok .sreset
  else .error .reservedOpcode

/-- The command word of an instruction (30_encoding.md R83, R88). -/
def encode : Instr → Word
  | .nop => 0x00000000
  | .keyclr => 0x00000001
  | .b32Char ch => (ch.setWidth 32 <<< 8) ||| 0x02
  | .b32End => 0x00000003
  | .hmac => 0x00000004
  | .trunc => 0x00000005
  | .totp => 0x00000006
  | .sreset => 0x0000000F

/-- The word whose low `nbits` bits are those of `w` and whose other bits are 0. A command is one 32-bit word, written
whole, so there are no bytes to lay out (30_encoding.md R80; 20_memory.md R52). -/
def tableWord (nbits w : Nat) : Word := BitVec.ofNat 32 (w % 2 ^ nbits)

/-- The instruction the decoder reads from a word numbered as spec/opcode_table.json numbers it. -/
def decodeTableWord (nbits w : Nat) : Option Instr :=
  match decode (tableWord nbits w) with
  | .ok i => some i
  | .error _ => none

end Sys2Proof
end

