-- ==== Sys2Proof/Machine/State.lean ====
section
/-! DEFINITION. The machine's state as plain data: every state element of 10_state.md R23 to R31, and beside them the
model's own environment (the host's moves, the responses it got, the schedule's counters). The state after reset. -/

namespace Sys2Proof.Machine

/-- The key-store lifecycle state S.KSTATE (10_state.md R26). Value 3 of its 2 bits is never held (log 10). -/
inductive KState where
  | loading
  | valid
  | failed
deriving DecidableEq, Repr

/-- The error causes, one sticky bit of S.ERR each (60_exceptions.md R201). -/
inductive ErrBit where
  | invalidSecret
  | bufferOverflow
  | keyNotReady
  | illegalCmd
  | busyViolation
  | keySealed
deriving DecidableEq, Repr

/-- The state elements a write set names (20_memory.md R64): an ERR bit is an element of its own. -/
inductive Elem where
  | secret
  | len
  | acc
  | bits
  | kstate
  | digest
  | toff
  | tbin
  | code
  | err (e : ErrBit)
deriving DecidableEq, Repr

/-- The host-visible registers and the two reserved offsets of the window (10_state.md R33, R44). -/
inductive Reg where
  | id
  | cmd
  | status
  | err
  | ctrLo
  | ctrHi
  | toff
  | tbin
  | code
  | digest (k : Fin 5)
  | reserved (k : Fin 2)
  | key (k : Fin 16)
deriving DecidableEq, Repr

/-- One move of the environment: a bus access of the host, or the platform's reset. An access names its place by the
offset from BASE, as every rule does, or by the address itself (20_memory.md R51; log 5). -/
inductive HostOp where
  /-- `MemRead(off, n)` (20_memory.md R56). -/
  | read (off n : Nat)
  /-- `MemWrite(off, n, v)` (R57). -/
  | write (off n : Nat) (v : Word)
  /-- A read of n bytes at an address of the host's address space, in the window or outside it (R51). -/
  | readAt (addr n : Nat)
  /-- A write of n bytes at an address of the host's address space, in the window or outside it (R51). -/
  | writeAt (addr n : Nat) (v : Word)
  /-- `RD <reg>, =<imm32>`: a read with the value the host expects (30_encoding.md R88). -/
  | check (off : Nat) (expected : Word)
  /-- `POLL`: read STATUS until BUSY reads 0 (R89). -/
  | poll
  /-- The host makes no access (60_exceptions.md R222). -/
  | idle
  /-- Hardware reset (70_reset_and_hazards.md R240). -/
  | reset
deriving DecidableEq, Repr

/-- What a bus access gives back to the host. -/
inductive Response where
  /-- A read returned the value. -/
  | data (off : Nat) (v : Word)
  /-- A read with an expected value returned `v`. -/
  | checked (off : Nat) (v expected : Word)
  /-- A legal write ended without a bus error. -/
  | written (off : Nat)
  /-- `BusError(off)` (20_memory.md R55, 60_exceptions.md R208). -/
  | busError (off : Nat)
  /-- The access lies outside the window and did not reach the block (20_memory.md R51): no value is given. The offset
  from BASE is negative below the window. -/
  | notReached (off : Int)
deriving DecidableEq, Repr

/-- The model's own part of the state: the host, the schedule and the draws. No rule gives these to the block. -/
structure Env where
  /-- The moves still to make, in program order (20_memory.md R67). -/
  hostOps : List HostOp
  /-- The responses so far, newest first: the observation of a run (70_reset_and_hazards.md R251). -/
  obs : List Response
  /-- Host moves left before `complete` of the command in flight (LAT, 00_scope.md R10). -/
  wait : Nat
  /-- Commands accepted so far: the index of the next latency (Config.lean). -/
  accepted : Nat
  /-- Reads made while busy so far: the index of the next draw (Config.lean). -/
  draws : Nat
deriving DecidableEq, Repr

/-- The state: S.SECRET to S.PEND as 10_state.md R23 to R31 give them, and the environment. -/
structure State where
  /-- S.SECRET, the key store, first decoded byte at index 0 (R23). -/
  secret : Vector Byte 64
  /-- S.LEN, the number of decoded bytes (R24). -/
  len : BitVec 7
  /-- S.ACC, the bits buffered and not yet emitted (R25). -/
  acc : BitVec 7
  /-- S.BITS, how many bits are buffered (R25). -/
  bits : BitVec 3
  /-- S.KSTATE (R26). -/
  kstate : KState
  /-- S.CTR, the counter (R27). -/
  ctr : BitVec 64
  /-- S.DIGEST (R28). -/
  digest : Vector Byte 20
  /-- S.TOFF (R29). -/
  toff : BitVec 4
  /-- S.TBIN (R29). -/
  tbin : BitVec 31
  /-- S.CODE (R29). -/
  code : BitVec 20
  /-- S.ERR, bit n the cause code n (R30, R37). -/
  err : BitVec 6
  /-- S.BUSY (R31). -/
  busy : Bool
  /-- S.PEND, the command in flight (R31). -/
  pend : Option Instr
  /-- The model's own fields. -/
  env : Env
deriving DecidableEq, Repr

/-- Why a step can stop. -/
inductive Fault where
  /-- Raised by `complete` in a state with BUSY = 1 and PEND = none, for which 20_memory.md R62 gives no case. R32 I7
  rules such states out, so no run reaches it. Safe (log 6). -/
  | noCommandInFlight
deriving DecidableEq, Repr

/-- Why an instruction can be refused. -/
inductive Refusal where
  /-- Raised by an arm of `exec` whose instruction has no meaning yet. No arm is left that raises it. Safe. -/
  | notModelled (mnemonic : String)
deriving DecidableEq, Repr

/-- The environment before anything has happened (log 9). -/
def Env.initial : Env := { hostOps := [], obs := [], wait := 0, accepted := 0, draws := 0 }

/-- The block's state elements alone, without the environment: what a free value may depend on beside its index. -/
def State.block (s : State) : State := { s with env := Env.initial }

/-- The state hardware reset and SRESET leave (10_state.md R46), with an environment in which nothing has happened. -/
def State.reset : State where
  secret := Vector.replicate 64 0
  len := 0
  acc := 0
  bits := 0
  kstate := .loading
  ctr := 0
  digest := Vector.replicate 20 0
  toff := 0
  tbin := 0
  code := 0
  err := 0
  busy := false
  pend := none
  env := Env.initial

end Sys2Proof.Machine
end

