-- ==== Sys2Proof/Config.lean ====
section
/-! DEFINITION. What the spec fixes for the block (00_scope.md R6 to R11, 10_state.md R34), and the free values: what it
leaves open, as constants with no body, so that nothing can be proved about them. -/

namespace Sys2Proof.Config

/-- SECRET_CAP: the key store holds at most 64 bytes (00_scope.md R6). -/
def secretCap : Nat := 64

/-- MODULUS = 10^6, for DIGITS = 6 (R7). -/
def modulus : Nat := 1000000

/-- The HMAC and SHA-1 block size in bytes (R11). -/
def blockLen : Nat := 64

/-- DIGEST_LEN: a digest has 20 bytes (R8). -/
def digestLen : Nat := 20

/-- The register window's size in bytes (R9). -/
def windowLen : Nat := 128

/-- ID reads the ASCII bytes "TOTP" packed with be32 (10_state.md R34). -/
def idValue : Word := 0x544F5450

/-- FREE VALUE: which of the 128-byte blocks of the host's address space the window is (20_memory.md R51).
notes/assumptions/5.md. -/
opaque windowIndex : Nat

/-- The OPEN platform parameter BASE, the address of the window, aligned to 128 bytes (R51). -/
def base : Nat := windowLen * windowIndex

/-- FREE VALUE, the OPEN parameter LAT (00_scope.md R10, 20_memory.md R62): how many host moves the `k`-th accepted
command, `c`, lets pass before its `complete` step, where the block's state at acceptance is `block`. Any finite number,
and no two commands, states or acceptances need have equal ones (70_reset_and_hazards.md R250).
notes/assumptions/2.md. -/
opaque latency (k : Nat) (c : Instr) (block : Machine.State) : Nat

/-- FREE VALUE (20_memory.md R65): the word the `k`-th read made while busy draws its unspecified bits from, where it
reads the register `r` of the block in the state `block`. Under no law. notes/assumptions/3.md. -/
opaque readDraw (k : Nat) (r : Machine.Reg) (block : Machine.State) : Word

end Sys2Proof.Config
end

