-- ==== Sys2Proof/Machine/Ops.lean ====
section
/-! DEFINITION. The shared operations: byte packing (00_scope.md R12 to R14), raising an error (60_exceptions.md R200,
the hardware's only exception, which saves nothing and returns from nothing: R212, R213), accepting and retiring a
command (20_memory.md R62, R63), the reset state (10_state.md R46), and the writes of 10_state.md R37, R38, R42. -/

namespace Sys2Proof.Machine

/-- `be32(b0, b1, b2, b3)`, b0 most significant (00_scope.md R14). -/
def be32 (b0 b1 b2 b3 : Byte) : Word := b0 ++ b1 ++ b2 ++ b3

/-- Byte `j` of a word, byte 0 most significant: `w[31 - 8j : 24 - 8j]` (41_hmac_sha1.md R136). -/
def wordByte (w : Word) (j : Nat) : Byte := w.extractLsb' (24 - 8 * j) 8

/-- `BE64(c)`: `m[i] = c[63 - 8i : 56 - 8i]` for i = 0..7 (00_scope.md R14). -/
def be64 (c : BitVec 64) : List Byte := (List.range 8).map fun i => c.extractLsb' (56 - 8 * i) 8

/-- `ROTL32(x, n)` for 0 < n < 32 (00_scope.md R13). -/
def rotl32 (x : Word) (n : Nat) : Word := (x <<< n) ||| (x >>> (32 - n))

/-- The cause code of an error: its bit index in ERR (60_exceptions.md R201). -/
def ErrBit.causeCode : ErrBit → Nat
  | .invalidSecret => 0
  | .bufferOverflow => 1
  | .keyNotReady => 2
  | .illegalCmd => 3
  | .busyViolation => 4
  | .keySealed => 5

/-- The one bit of S.ERR that the error is (10_state.md R37). -/
def ErrBit.mask (e : ErrBit) : BitVec 6 := 1#6 <<< e.causeCode

/-- `raise CmdError(F)`: set S.ERR.F and nothing else (60_exceptions.md R200). -/
def raiseErr (e : ErrBit) (s : State) : State := { s with err := s.err ||| e.mask }

/-- The acceptance of a command: `S.PEND <- c; S.BUSY <- 1` (20_memory.md R63). The latency of this command in
this state is drawn here (00_scope.md R10, 70_reset_and_hazards.md R250; log 2). -/
def accept (c : Instr) (s : State) : State :=
  { s with
    pend := some c
    busy := true
    env := { s.env with wait := Config.latency s.env.accepted c s.block, accepted := s.env.accepted + 1 } }

/-- The end of `complete`: `S.PEND <- none; S.BUSY <- 0` (20_memory.md R62). -/
def retire (s : State) : State := { s with pend := none, busy := false }

/-- Every state element at its reset value (10_state.md R46). The environment is not the block's and stays, but no
command is in flight any more, so nothing is waited for (log 8). -/
def blockReset (s : State) : State where
  secret := State.reset.secret
  len := State.reset.len
  acc := State.reset.acc
  bits := State.reset.bits
  kstate := State.reset.kstate
  ctr := State.reset.ctr
  digest := State.reset.digest
  toff := State.reset.toff
  tbin := State.reset.tbin
  code := State.reset.code
  err := State.reset.err
  busy := State.reset.busy
  pend := State.reset.pend
  env := { s.env with wait := 0 }

/-- The bus answers the host. -/
def respond (r : Response) (s : State) : State := { s with env := { s.env with obs := r :: s.env.obs } }

/-- The bit accumulator takes new contents (10_state.md R25). -/
def setAcc (a : BitVec 7) (k : BitVec 3) (s : State) : State := { s with acc := a, bits := k }

/-- The key store goes to another lifecycle state (10_state.md R26). -/
def setKState (k : KState) (s : State) : State := { s with kstate := k }

/-- The W1C write of ERR: `S.ERR <- S.ERR & ~v[5:0]` (10_state.md R37). -/
def clearErr (v : Word) (s : State) : State := { s with err := s.err &&& ~~~(v.extractLsb' 0 6) }

/-- The write of CTR_LO: bits 31:0 of the counter (10_state.md R38). -/
def setCtrLo (v : Word) (s : State) : State := { s with ctr := s.ctr.extractLsb' 32 32 ++ v }

/-- The write of CTR_HI: bits 63:32 of the counter (10_state.md R38). -/
def setCtrHi (v : Word) (s : State) : State := { s with ctr := v ++ s.ctr.extractLsb' 0 32 }

/-- The write of DIGESTk: digest bytes 4k to 4k+3, most significant byte first (10_state.md R42). -/
def setDigestWord (k : Fin 5) (v : Word) (s : State) : State :=
  { s with
    digest := (((s.digest.set (4 * k.val) (wordByte v 0)).set (4 * k.val + 1) (wordByte v 1)).set
      (4 * k.val + 2) (wordByte v 2)).set (4 * k.val + 3) (wordByte v 3) }

end Sys2Proof.Machine
end

