-- ==== Sys2Proof/Machine/Operands.lean ====
section
/-! DEFINITION. Where operands come from: the register map (10_state.md R33), and the state a command reads as its key
block and its message (30_encoding.md R82; 41_hmac_sha1.md R130, R137). -/

namespace Sys2Proof.Machine

/-- The byte offset of a register (10_state.md R33). -/
def Reg.offset : Reg → Nat
  | .id => 0x00
  | .cmd => 0x04
  | .status => 0x08
  | .err => 0x0C
  | .ctrLo => 0x10
  | .ctrHi => 0x14
  | .toff => 0x18
  | .tbin => 0x1C
  | .code => 0x20
  | .digest k => 0x24 + 4 * k.val
  | .reserved k => 0x38 + 4 * k.val
  | .key k => 0x40 + 4 * k.val

/-- The register that the 4-byte-aligned offset `4 * n` of the window holds: every such offset is a register of
10_state.md R33 or one of the two reserved offsets of R44. -/
def Reg.ofIndex (n : Nat) : Reg :=
  if n = 0 then .id
  else if n = 1 then .cmd
  else if n = 2 then .status
  else if n = 3 then .err
  else if n = 4 then .ctrLo
  else if n = 5 then .ctrHi
  else if n = 6 then .toff
  else if n = 7 then .tbin
  else if n = 8 then .code
  else if n < 14 then .digest (Fin.ofNat 5 (n - 9))
  else if n < 16 then .reserved (Fin.ofNat 2 (n - 14))
  else .key (Fin.ofNat 16 (n - 16))

/-- The offset from BASE of an address of the host's address space: none below the window (20_memory.md R51). -/
def windowOffset (addr : Nat) : Option Nat := if Config.base ≤ addr then some (addr - Config.base) else none

/-- What an access at the offset with the width comes to (20_memory.md R51, R54, R55). -/
def accessTarget (off n : Nat) : Except Response Reg :=
  if off ≥ Config.windowLen then .error (.notReached off)
  else if legalAccess off n then .ok (Reg.ofIndex (off / 4))
  else .error (.busError off)

/-- Four consecutive bytes packed into a register with be32, the lower index more significant (10_state.md R42, R43). -/
def packWord (bs : List Byte) (k : Nat) : Word :=
  be32 (bs.getD (4 * k) 0) (bs.getD (4 * k + 1) 0) (bs.getD (4 * k + 2) 0) (bs.getD (4 * k + 3) 0)

/-- The decoded key: `S.SECRET[0..S.LEN-1]` (00_scope.md §6, Secret). -/
def keyBytes (s : State) : List Byte := s.secret.toList.take s.len.toNat

/-- `K0 = S.SECRET[0..S.LEN-1] || rep(0x00, 64 - S.LEN)` (41_hmac_sha1.md R137). -/
def keyBlock (s : State) : List Byte := keyBytes s ++ List.replicate (Config.blockLen - s.len.toNat) 0

/-- The HMAC message `M = BE64(S.CTR)` (41_hmac_sha1.md R130). -/
def message (s : State) : List Byte := be64 s.ctr

end Sys2Proof.Machine
end

