-- ==== Sys2Proof/Machine/Flags.lean ====
section
/-! DEFINITION. The flags and how registers present the state: STATUS (10_state.md R36), the read value of every
register (R34 to R44), the write set of each command (20_memory.md R64) and the bits that present it (R65). The block
has no condition codes (R45). -/

namespace Sys2Proof.Machine

/-- The 2-bit code of a key state (10_state.md R26). -/
def KState.toBits : KState → BitVec 2
  | .loading => 0
  | .valid => 1
  | .failed => 2

/-- The STATUS read value: ACC << 16 | LEN << 8 | BITS << 4 | KSTATE << 1 | BUSY (10_state.md R36). -/
def statusWord (s : State) : Word :=
  (s.acc.setWidth 32 <<< 16) ||| (s.len.setWidth 32 <<< 8) ||| (s.bits.setWidth 32 <<< 4) |||
    (s.kstate.toBits.setWidth 32 <<< 1) ||| (BitVec.ofBool s.busy).setWidth 32

/-- The exact value a register presents (10_state.md R34 to R44); CMD and the reserved offsets read 0. -/
def regValue (r : Reg) (s : State) : Word :=
  match r with
  | .id => Config.idValue
  | .cmd => 0
  | .status => statusWord s
  | .err => s.err.setWidth 32
  | .ctrLo => s.ctr.extractLsb' 0 32
  | .ctrHi => s.ctr.extractLsb' 32 32
  | .toff => s.toff.setWidth 32
  | .tbin => s.tbin.setWidth 32
  | .code => s.code.setWidth 32
  | .digest k => packWord s.digest.toList k.val
  | .reserved _ => 0
  | .key k => packWord s.secret.toList k.val

/-- WS(c), the state elements the command's `complete` step may change (20_memory.md R64). NOP and SRESET are never in
flight and have none. -/
def writeSet : Instr → List Elem
  | .nop => []
  | .keyclr => [.secret, .len, .acc, .bits, .kstate]
  | .b32Char _ => [.secret, .len, .acc, .bits, .kstate, .err .bufferOverflow, .err .keySealed]
  | .b32End => [.acc, .bits, .kstate, .err .invalidSecret, .err .keySealed]
  | .hmac => [.digest, .err .keyNotReady]
  | .trunc => [.toff, .tbin, .code]
  | .totp => [.digest, .toff, .tbin, .code, .err .keyNotReady]
  | .sreset => []

/-- The bits of a register that present a state element (20_memory.md R64, third column; 10_state.md R36, R37). -/
def presentedBits (x : Elem) (r : Reg) : Word :=
  match x, r with
  | .secret, .key _ => 0xFFFFFFFF
  | .len, .status => 0x00007F00
  | .acc, .status => 0x007F0000
  | .bits, .status => 0x00000070
  | .kstate, .status => 0x00000006
  | .digest, .digest _ => 0xFFFFFFFF
  | .toff, .toff => 0x0000000F
  | .tbin, .tbin => 0x7FFFFFFF
  | .code, .code => 0x000FFFFF
  | .err e, .err => e.mask.setWidth 32
  | _, _ => 0

/-- The bits of a register that present an element of the command's write set (20_memory.md R65). -/
def drawnBits (c : Instr) (r : Reg) : Word := (writeSet c).foldl (fun m x => m ||| presentedBits x r) 0

/-- The bits of a register whose read value is a draw in this state: none while idle (20_memory.md R56). -/
def unspecifiedBits (r : Reg) (s : State) : Word :=
  match s.busy, s.pend with
  | true, some c => drawnBits c r
  | _, _ => 0

/-- The bits of `free` where `mask` is 1, those of `exact` elsewhere. -/
def mixBits (mask free exact : Word) : Word := (exact &&& ~~~mask) ||| (free &&& mask)

/-- What a host read of the register returns: a draw in the unspecified bits, the exact value in every other
(20_memory.md R56, R65). -/
def readValue (r : Reg) (s : State) : Word :=
  if unspecifiedBits r s = 0 then regValue r s
  else mixBits (unspecifiedBits r s) (Config.readDraw s.env.draws r s.block) (regValue r s)

/-- After a read made while busy the next one draws afresh (20_memory.md R65; log 3). -/
def advanceDraw (s : State) : State :=
  if s.busy then { s with env := { s.env with draws := s.env.draws + 1 } } else s

end Sys2Proof.Machine
end

