-- ==== Sys2Proof/Machine/Base32.lean ====
section
/-! DEFINITION. The Base32 decoder: the symbol map and the accumulator (40_base32.md R100, R102), and the meanings of
KEYCLR, B32_CHAR and B32_END (R103 to R105). -/

namespace Sys2Proof.Machine

/-- The fold of 'a'..'z' to 'A'..'Z' (40_base32.md R100). -/
def foldCase (c : Byte) : Byte := if 0x61#8 ≤ c ∧ c ≤ 0x7A#8 then c - 0x20#8 else c

/-- `b32val(c)`: the 5-bit value of a symbol, none for every other character (40_base32.md R100). -/
def b32val (c : Byte) : Option (BitVec 5) :=
  if 0x41#8 ≤ foldCase c ∧ foldCase c ≤ 0x5A#8 then some ((foldCase c - 0x41#8).setWidth 5)
  else if 0x32#8 ≤ foldCase c ∧ foldCase c ≤ 0x37#8 then some ((foldCase c - 0x32#8 + 26#8).setWidth 5)
  else none

/-- `acc_step(acc, bits, v)` (40_base32.md R102): the exact numbers of the rule, narrowed to the fields' widths at the
end. -/
def accStep (acc : BitVec 7) (bits : BitVec 3) (v : BitVec 5) : BitVec 7 × BitVec 3 × Option Byte :=
  let t := acc.toNat * 32 + v.toNat
  let n := bits.toNat + 5
  if n < 8 then (BitVec.ofNat 7 t, BitVec.ofNat 3 n, none)
  else
    let k := n - 8
    (BitVec.ofNat 7 (t % 2 ^ k), BitVec.ofNat 3 k, some (BitVec.ofNat 8 (t / 2 ^ k)))

/-- The overflow of B32_CHAR: a 65th byte would be emitted (40_base32.md R104). -/
def overflowKey (s : State) : State := setAcc 0 0 (setKState .failed (raiseErr .bufferOverflow s))

/-- A completed byte is appended to the key store (40_base32.md R104). -/
def storeByte (out : Byte) (s : State) : State :=
  { s with secret := s.secret.setIfInBounds s.len.toNat out, len := s.len + 1 }

/-- Every byte of the key store is overwritten with zero, and none is held (40_base32.md R103). -/
def clearKey (s : State) : State := { s with secret := Vector.replicate 64 0, len := 0 }

/-- The LOADING case of B32_CHAR for a symbol (40_base32.md R104). -/
def feedSymbol (m : BitVec 5) (s : State) : State :=
  match accStep s.acc s.bits m with
  | (a, k, none) => setAcc a k s
  | (a, k, some out) => if s.len.toNat = Config.secretCap then overflowKey s else setAcc a k (storeByte out s)

/-- KEYCLR opens a new decode (40_base32.md R103). -/
def execKeyclr (s : State) : Host.Outcome State Fault Refusal :=
  .next (setKState .loading (setAcc 0 0 (clearKey s)))

/-- B32_CHAR feeds one character to the decoder (40_base32.md R104). -/
def execB32Char (ch : Byte) (s : State) : Host.Outcome State Fault Refusal :=
  match s.kstate with
  | .valid => .next (raiseErr .keySealed s)
  | .failed => .next s
  | .loading =>
    match b32val ch with
    | none => .next s
    | some m => .next (feedSymbol m s)

/-- B32_END closes the decode and seals the key (40_base32.md R105). -/
def execB32End (s : State) : Host.Outcome State Fault Refusal :=
  match s.kstate with
  | .valid => .next (raiseErr .keySealed s)
  | .failed => .next s
  | .loading =>
    if s.len = 0 then .next (setKState .failed (raiseErr .invalidSecret (setAcc 0 0 s)))
    else .next (setKState .valid (setAcc 0 0 s))

end Sys2Proof.Machine
end

