-- ==== Sys2Proof/Machine/Control.lean ====
section
/-! DEFINITION. The meanings of the control commands NOP and SRESET (43_control.md R190, R191). -/

namespace Sys2Proof.Machine

/-- NOP does nothing (43_control.md R190). -/
def execNop (s : State) : Host.Outcome State Fault Refusal := .next s

/-- SRESET is the soft reset: PEND <- none, BUSY <- 0, every other element to its reset value (43_control.md R191). -/
def execSreset (s : State) : Host.Outcome State Fault Refusal := .next (blockReset s)

end Sys2Proof.Machine
end

