-- ==== Sys2Proof/Machine/Sha1.lean ====
section
/-! DEFINITION. SHA-1 and HMAC as 41_hmac_sha1.md R131 to R138 give them (the spec marks them as supplied from general
knowledge). -/

namespace Sys2Proof.Machine

/-- The five-word state of SHA-1. -/
structure Hash where
  h0 : Word
  h1 : Word
  h2 : Word
  h3 : Word
  h4 : Word
deriving DecidableEq, Repr

/-- `H_init` (41_hmac_sha1.md R131). -/
def hInit : Hash := ⟨0x67452301, 0xEFCDAB89, 0x98BADCFE, 0x10325476, 0xC3D2E1F0⟩

/-- `K(t)` (R131). -/
def roundConst (t : Nat) : Word :=
  if t ≤ 19 then 0x5A827999
  else if t ≤ 39 then 0x6ED9EBA1
  else if t ≤ 59 then 0x8F1BBCDC
  else 0xCA62C1D6

/-- `z = (55 - len(m)) mod 64`, with the remainder of integers (R132). -/
def padZeros (len : Nat) : Nat := ((55 - (len : Int)) % 64).toNat

/-- `pad(m) = m || 0x80 || rep(0x00, z) || BE64(8 * len(m))` (R132). -/
def pad (m : List Byte) : List Byte :=
  m ++ [0x80] ++ List.replicate (padZeros m.length) 0 ++ be64 (BitVec.ofNat 64 (8 * m.length))

/-- The 64-byte blocks `B_0 .. B_{N-1}` of a padded message, in order (R132). -/
def blocks (p : List Byte) : List (List Byte) :=
  (List.range (p.length / 64)).map fun i => (p.drop (64 * i)).take 64

/-- `W[t] = be32(B[4t], B[4t+1], B[4t+2], B[4t+3])` for t in 0..15 (R133). -/
def blockWord (b : List Byte) (t : Nat) : Word :=
  be32 (b.getD (4 * t) 0) (b.getD (4 * t + 1) 0) (b.getD (4 * t + 2) 0) (b.getD (4 * t + 3) 0)

/-- One more word of the schedule, `ROTL32(W[t-3] ^ W[t-8] ^ W[t-14] ^ W[t-16], 1)`, put before the words so far, which
stand newest first (R133). -/
def extendSchedule (w : List Word) : List Word :=
  rotl32 (w.getD 2 0 ^^^ w.getD 7 0 ^^^ w.getD 13 0 ^^^ w.getD 15 0) 1 :: w

/-- The message schedule of a block: W[0] to W[79] (R133). -/
def schedule (b : List Byte) : List Word :=
  ((List.range 64).foldl (fun w _ => extendSchedule w) ((List.range 16).map (blockWord b)).reverse).reverse

/-- The round function `f(t, b, c, d)`: Ch, Parity, Maj, Parity (R134). -/
def roundF (t : Nat) (b c d : Word) : Word :=
  if t ≤ 19 then (b &&& c) ||| (~~~b &&& d)
  else if t ≤ 39 then b ^^^ c ^^^ d
  else if t ≤ 59 then (b &&& c) ||| (b &&& d) ||| (c &&& d)
  else b ^^^ c ^^^ d

/-- One round of the compression's loop on (a, b, c, d, e) (R135). -/
def sha1Round (t : Nat) (w : Word) (h : Hash) : Hash :=
  ⟨rotl32 h.h0 5 + roundF t h.h1 h.h2 h.h3 + h.h4 + roundConst t + w, h.h0, rotl32 h.h1 30, h.h2, h.h3⟩

/-- The 80 rounds (R135). -/
def sha1Rounds (w : List Word) (h : Hash) : Hash := (List.range 80).foldl (fun h t => sha1Round t (w.getD t 0) h) h

/-- The wordwise sum of two states, modulo 2^32. -/
def addHash (h g : Hash) : Hash := ⟨h.h0 + g.h0, h.h1 + g.h1, h.h2 + g.h2, h.h3 + g.h3, h.h4 + g.h4⟩

/-- `sha1_compress(H, B)` (R135). -/
def sha1Compress (h : Hash) (b : List Byte) : Hash := addHash h (sha1Rounds (schedule b) h)

/-- The four bytes of a word, most significant first (R136). -/
def wordBytes (w : Word) : List Byte := [wordByte w 0, wordByte w 1, wordByte w 2, wordByte w 3]

/-- The 20-byte string of a state: `d[4k+j] = H_k[31 - 8j : 24 - 8j]` (R136). -/
def digestBytes (h : Hash) : List Byte :=
  wordBytes h.h0 ++ wordBytes h.h1 ++ wordBytes h.h2 ++ wordBytes h.h3 ++ wordBytes h.h4

/-- `SHA1(m)` (R136). -/
def sha1 (m : List Byte) : List Byte := digestBytes ((blocks (pad m)).foldl sha1Compress hInit)

/-- Every byte of a key block xored with one pad byte: `xorb(K0, rep(p, len(K0)))` (R138). -/
def xorPad (k0 : List Byte) (p : Byte) : List Byte := k0.map (· ^^^ p)

/-- `hmac_sha1(K0, m) = SHA1((K0 ^ opad) || SHA1((K0 ^ ipad) || m))` (R138). -/
def hmacSha1 (k0 m : List Byte) : List Byte := sha1 (xorPad k0 0x5C ++ sha1 (xorPad k0 0x36 ++ m))

end Sys2Proof.Machine
end

