-- ==== Sys2Proof/Machine/Trunc.lean ====
section
/-! DEFINITION. Dynamic truncation (42_truncation.md R170 to R173) and the meaning of TRUNC (R174). -/

namespace Sys2Proof.Machine

/-- `off = D[19] & 0x0F` (42_truncation.md R170). -/
def truncOffset (d : Vector Byte 20) : BitVec 4 := (d[19] &&& 0x0F#8).setWidth 4

/-- Byte `off + i` of the digest. The window lies inside it, byte 19 never in it (R171). -/
def windowByte (d : Vector Byte 20) (i : Fin 4) : Byte :=
  d[(truncOffset d).toNat + i.val]'(by have h := (truncOffset d).isLt; omega)

/-- `bin = be32(D[off] & 0x7F, D[off+1], D[off+2], D[off+3])`, 31 bits (R171, R172). -/
def truncBin (d : Vector Byte 20) : BitVec 31 :=
  (be32 (windowByte d 0 &&& 0x7F#8) (windowByte d 1) (windowByte d 2) (windowByte d 3)).setWidth 31

/-- `code = bin mod 1000000` (R173). -/
def truncCode (d : Vector Byte 20) : BitVec 20 := BitVec.ofNat 20 ((truncBin d).toNat % Config.modulus)

/-- The body of TRUNC: `(S.TOFF, S.TBIN, S.CODE) <- trunc(S.DIGEST)` (R174). -/
def truncBody (s : State) : State :=
  { s with toff := truncOffset s.digest, tbin := truncBin s.digest, code := truncCode s.digest }

/-- TRUNC truncates the digest register into the result registers (R174). -/
def execTrunc (s : State) : Host.Outcome State Fault Refusal := .next (truncBody s)

end Sys2Proof.Machine
end

