-- ==== Sys2Proof/Machine/Hmac.lean ====
section
/-! DEFINITION. The meanings of HMAC (41_hmac_sha1.md R140) and TOTP (42_truncation.md R175). -/

namespace Sys2Proof.Machine

/-- The digest of the sealed key and the counter: `hmac_sha1(K0, BE64(S.CTR))` (41_hmac_sha1.md R140). -/
def stateHmac (s : State) : List Byte := hmacSha1 (keyBlock s) (message s)

/-- The digest register holding a byte string: `S.DIGEST[i] <- d[i]` for i = 0..19 (41_hmac_sha1.md R140). Irreducible, so
that comparing two states never starts to compute a hash. -/
@[irreducible] def digestOf (d : List Byte) : Vector Byte 20 := Vector.ofFn fun i => d.getD i.val 0

/-- The body of HMAC after its key check (41_hmac_sha1.md R140). -/
def hmacBody (s : State) : State := { s with digest := digestOf (stateHmac s) }

/-- HMAC computes the keyed hash of the counter into the digest register (41_hmac_sha1.md R140). -/
def execHmac (s : State) : Host.Outcome State Fault Refusal :=
  if s.kstate ≠ .valid then .next (raiseErr .keyNotReady s) else .next (hmacBody s)

/-- TOTP computes HMAC and then TRUNC as one command (42_truncation.md R175). -/
def execTotp (s : State) : Host.Outcome State Fault Refusal :=
  if s.kstate ≠ .valid then .next (raiseErr .keyNotReady s) else .next (truncBody (hmacBody s))

end Sys2Proof.Machine
end

