-- ==== Sys2Proof/Machine/Dispatch.lean ====
section
/-! DEFINITION. The meaning of every command: one arm per constructor of Instr. -/

namespace Sys2Proof.Machine

/-- What a command does to the state: its row's rule (30_encoding.md R83). -/
def exec (i : Instr) (s : State) : Host.Outcome State Fault Refusal :=
  match i with
  | .nop => Sys2Proof.Machine.execNop s
  | .keyclr => Sys2Proof.Machine.execKeyclr s
  | .b32Char ch => Sys2Proof.Machine.execB32Char ch s
  | .b32End => Sys2Proof.Machine.execB32End s
  | .hmac => Sys2Proof.Machine.execHmac s
  | .trunc => Sys2Proof.Machine.execTrunc s
  | .totp => Sys2Proof.Machine.execTotp s
  | .sreset => Sys2Proof.Machine.execSreset s

end Sys2Proof.Machine
end

