-- ==== Sys2Proof/Machine/Bus.lean ====
section
/-! DEFINITION. The host's accesses: the issue of a command word (20_memory.md R63), MemWrite (R57) and MemRead (R56),
and the engine's `complete` (R62). -/

namespace Sys2Proof.Machine

/-- The command word that `issue` tests for before BUSY (20_memory.md R63). -/
def sresetWord : Word := 0x0000000F

/-- What `issue` does with a decoded word while idle: NOP and SRESET are performed, every other command is accepted
(20_memory.md R63; 43_control.md R190). -/
def issueDecoded (c : Instr) (s : State) : Host.Outcome State Fault Refusal :=
  if c.mayBeInFlight then .next (accept c s) else exec c s

/-- `issue(v)`: a write of the word v to CMD (20_memory.md R63; the order of outcomes of 60_exceptions.md R210). -/
def issue (v : Word) (s : State) : Host.Outcome State Fault Refusal :=
  if v = sresetWord then exec .sreset s
  else if s.busy then .next (raiseErr .busyViolation s)
  else
    match decode v with
    | .error _ => .next (raiseErr .illegalCmd s)
    | .ok c => issueDecoded c s

/-- A write that is discarded with BUSY_VIOLATION while busy (20_memory.md R57, R66). -/
def guardedWrite (f : State → State) (s : State) : State := if s.busy then raiseErr .busyViolation s else f s

/-- A legal `MemWrite` of v to a register (20_memory.md R57). -/
def writeReg (r : Reg) (v : Word) (s : State) : Host.Outcome State Fault Refusal :=
  match r with
  | .cmd => issue v s
  | .err => .next (guardedWrite (clearErr v) s)
  | .ctrLo => .next (guardedWrite (setCtrLo v) s)
  | .ctrHi => .next (guardedWrite (setCtrHi v) s)
  | .digest k => .next (guardedWrite (setDigestWord k v) s)
  | .id => .next s
  | .status => .next s
  | .toff => .next s
  | .tbin => .next s
  | .code => .next s
  | .reserved _ => .next s
  | .key _ => .next s

/-- `MemWrite(off, n, v)` (20_memory.md R57): an access that is illegal or does not reach the block changes nothing in
it (R51, R55). The bus answers the host. -/
def memWrite (off n : Nat) (v : Word) (s : State) : Host.Outcome State Fault Refusal :=
  match accessTarget off n with
  | .error r => .next (respond r s)
  | .ok reg => writeReg reg v (respond (.written off) s)

/-- A legal `MemRead` of a register, answered as `mk` says: no state of the block changes (20_memory.md R56). -/
def answerRead (r : Reg) (mk : Word → Response) (s : State) : State := respond (mk (readValue r s)) (advanceDraw s)

/-- `MemRead(off, n)` (20_memory.md R56). -/
def memRead (off n : Nat) (mk : Word → Response) (s : State) : State :=
  match accessTarget off n with
  | .error r => respond r s
  | .ok reg => answerRead reg mk s

/-- An access below the window does not reach the block (20_memory.md R51). -/
def missWindow (addr : Nat) (s : State) : State := respond (.notReached ((addr : Int) - Config.base)) s

/-- A host read at an address: `MemRead` at its offset from BASE, if it has one (20_memory.md R51). -/
def busRead (addr n : Nat) (s : State) : State :=
  match windowOffset addr with
  | none => missWindow addr s
  | some off => memRead off n (.data off) s

/-- A host write at an address: `MemWrite` at its offset from BASE, if it has one (20_memory.md R51). -/
def busWrite (addr n : Nat) (v : Word) (s : State) : Host.Outcome State Fault Refusal :=
  match windowOffset addr with
  | none => .next (missWindow addr s)
  | some off => memWrite off n v s

/-- `complete()`: carry out the command in flight, then clear PEND and BUSY (20_memory.md R62). -/
def complete (s : State) : Host.Outcome State Fault Refusal :=
  match s.pend with
  | none => .fault .noCommandInFlight
  | some c =>
    match exec c s with
    | .next t => .next (retire t)
    | .fault r => .fault r
    | .refused r => .refused r

end Sys2Proof.Machine
end

