-- ==== Sys2Proof/Machine/Agents.lean ====
section
/-! DEFINITION. The two agents of 10_state.md R20: which of them moves, and the host's next move. -/

namespace Sys2Proof.Machine

/-- The engine's turn: `complete` is enabled (20_memory.md R62) and the command's latency has run out (log 2). -/
def engineMoves (s : State) : Bool := s.busy && s.env.wait == 0

/-- One host move passes: the latency counts down and the moves still to make are `rest`. -/
def passTime (rest : List HostOp) (s : State) : State :=
  { s with env := { s.env with wait := s.env.wait - 1, hostOps := rest } }

/-- A move is put before the host's other moves. -/
def pushOp (op : HostOp) (s : State) : State := { s with env := { s.env with hostOps := op :: s.env.hostOps } }

/-- One STATUS read of POLL (30_encoding.md R89): if BUSY reads 1 the host polls again. BUSY reads exactly while busy
and while idle (20_memory.md R65), so the bit read is S.BUSY (`readValue_busy`). -/
def pollOnce (s : State) : State :=
  if s.busy then pushOp .poll (answerRead .status (.data Reg.status.offset) s)
  else answerRead .status (.data Reg.status.offset) s

/-- What a move of the host or the platform does. -/
def performOp (op : HostOp) (s : State) : Host.Outcome State Fault Refusal :=
  match op with
  | .read off n => .next (memRead off n (.data off) s)
  | .write off n v => memWrite off n v s
  | .readAt addr n => .next (busRead addr n s)
  | .writeAt addr n v => busWrite addr n v s
  | .check off expected => .next (memRead off 4 (fun v => .checked off v expected) s)
  | .poll => .next (pollOnce s)
  | .idle => .next s
  | .reset => .next (blockReset s)

/-- The host's turn: its next move, or nothing where it has none left (70_reset_and_hazards.md R241, R251). -/
def hostTurn (s : State) : Host.Outcome State Fault Refusal :=
  match s.env.hostOps with
  | [] => .next (passTime [] s)
  | op :: rest => performOp op (passTime rest s)

/-- The state in which the next step runs the command word: a command that goes through PEND stands there accepted, its
latency run out; every other word is the host's next write to CMD, with the block idle (log 11). -/
def placeCommand (v : Word) (s : State) : State :=
  match decode v with
  | .ok c =>
    if c.mayBeInFlight then { s with pend := some c, busy := true, env := { s.env with wait := 0 } }
    else pushOp (.write Reg.cmd.offset 4 v) (retire s)
  | .error _ => pushOp (.write Reg.cmd.offset 4 v) (retire s)

end Sys2Proof.Machine
end

