-- ==== Sys2Proof/Machine/HostProgram.lean ====
section
/-! DEFINITION. The host program syntax (30_encoding.md R88 to R90): statements, pseudo-instructions and the bus
transactions they expand to. -/

namespace Sys2Proof.Machine

/-- A statement of the host assembly (30_encoding.md R88) or a pseudo-instruction (R89). -/
inductive HostStmt where
  /-- `WR <reg>, <imm32>`. -/
  | wr (r : Reg) (v : Word)
  /-- `RD <reg>`. -/
  | rd (r : Reg)
  /-- `RD <reg>, =<imm32>`. -/
  | rdExpect (r : Reg) (v : Word)
  /-- `CMD <mnemonic> [<ch>]`. -/
  | cmd (i : Instr)
  /-- `POLL`. -/
  | poll
  /-- `CMDW <mnemonic> [<ch>]`. -/
  | cmdw (i : Instr)
  /-- `B32 "<s>"`. -/
  | b32 (bytes : List Byte)
  /-- `LOADKEY "<s>"`. -/
  | loadKey (bytes : List Byte)
  /-- `SETCTR <imm64>`. -/
  | setCtr (c : BitVec 64)
  /-- `SETDIGEST <40 hex digits>`. -/
  | setDigest (d : Vector Byte 20)
deriving DecidableEq, Repr

/-- `WR <reg>, <imm32>`: `MemWrite(off(reg), 4, imm32)` (30_encoding.md R88). -/
def wrOps (r : Reg) (v : Word) : List HostOp := [.write r.offset 4 v]

/-- `CMD <mnemonic> [<ch>]`: `WR CMD, encode(mnemonic, ch)` (R88). -/
def cmdOps (i : Instr) : List HostOp := wrOps .cmd (encode i)

/-- `CMDW`: `CMD`, then `POLL` (R89). -/
def cmdwOps (i : Instr) : List HostOp := cmdOps i ++ [.poll]

/-- `B32 "<s>"`: `CMDW B32_CHAR b` for each byte b in order (R89). -/
def b32Ops (bytes : List Byte) : List HostOp := bytes.flatMap fun b => cmdwOps (.b32Char b)

/-- The host moves of a statement (R88, R89). -/
def HostStmt.ops : HostStmt → List HostOp
  | .wr r v => wrOps r v
  | .rd r => [.read r.offset 4]
  | .rdExpect r v => [.check r.offset v]
  | .cmd i => cmdOps i
  | .poll => [.poll]
  | .cmdw i => cmdwOps i
  | .b32 bytes => b32Ops bytes
  | .loadKey bytes => cmdwOps .keyclr ++ b32Ops bytes ++ cmdwOps .b32End
  | .setCtr c => wrOps .ctrLo (c.extractLsb' 0 32) ++ wrOps .ctrHi (c.extractLsb' 32 32)
  | .setDigest d => (List.finRange 5).flatMap fun k => wrOps (.digest k) (packWord d.toList k.val)

/-- The host moves of a program: its statements' in order (R90). -/
def programOps (p : List HostStmt) : List HostOp := p.flatMap HostStmt.ops

/-- The host is given a program to run. -/
def loadProgram (p : List HostStmt) (s : State) : State :=
  { s with env := { s.env with hostOps := s.env.hostOps ++ programOps p } }

end Sys2Proof.Machine
end

