-- ==== Sys2Proof/Machine/Step.lean ====
section
/-! DEFINITION. One step of the machine, and where the host places the next instruction. -/

namespace Sys2Proof.Machine

/-- One step: the engine's `complete` when it is its turn, else the host's next move (10_state.md R20;
20_memory.md R62, R67). -/
def step (s : State) : Host.Outcome State Fault Refusal :=
  if engineMoves s then complete s else hostTurn s

/-- The state with an instruction placed so that the next step runs it (log 11). -/
def State.withFetchWord (s : State) (nbits w : Nat) : State := placeCommand (tableWord nbits w) s

end Sys2Proof.Machine
end

