-- ==== Sys2Proof/Safety.lean ====
section
/-! DEFINITION. What claims are stated in: the invariants of 10_state.md R32, the state a run ends in
(70_reset_and_hazards.md R251), the state an outcome gives, and feeding a string to the decoder (40_base32.md R107). -/

namespace Sys2Proof.Machine

/-- (I1) `S.LEN <= 64`. -/
abbrev State.lenInRange (s : State) : Prop := s.len.toNat ≤ 64

/-- (I2) `S.BITS <= 7` and `S.ACC < 2^S.BITS`. The first half holds by the field's width. -/
abbrev State.accInBits (s : State) : Prop := s.acc.toNat < 2 ^ s.bits.toNat

/-- (I3) `S.SECRET[i] = 0x00` for every `i >= S.LEN`. -/
abbrev State.tailZero (s : State) : Prop := ∀ i : Fin 64, s.len.toNat ≤ i.val → s.secret[i.val] = 0

/-- (I4) `S.KSTATE = VALID` implies `1 <= S.LEN <= 64`. -/
abbrev State.validHasKey (s : State) : Prop := s.kstate = .valid → 1 ≤ s.len.toNat ∧ s.len.toNat ≤ 64

/-- (I5) `S.KSTATE != LOADING` implies `S.ACC = 0` and `S.BITS = 0`. -/
abbrev State.closedAccEmpty (s : State) : Prop := s.kstate ≠ .loading → s.acc = 0 ∧ s.bits = 0

/-- (I6) `S.CODE = S.TBIN mod 1000000`. The bounds on TOFF and TBIN hold by the fields' widths. -/
abbrev State.codeOfBin (s : State) : Prop := s.code.toNat = s.tbin.toNat % 1000000

/-- (I7) `S.BUSY = 1` if and only if `S.PEND != none`. -/
abbrev State.busyIffPend (s : State) : Prop := s.busy = true ↔ s.pend ≠ none

/-- Only a command that `issue` accepts is in flight: "NOP and SRESET are never in flight" (20_memory.md R64). -/
abbrev State.pendAccepted (s : State) : Prop := ∀ c : Instr, s.pend = some c → c.mayBeInFlight = true

/-- The invariants of 10_state.md R32, with the one of 20_memory.md R64 on what may be in flight. -/
structure State.Inv (s : State) : Prop where
  lenInRange : s.lenInRange
  accInBits : s.accInBits
  tailZero : s.tailZero
  validHasKey : s.validHasKey
  closedAccEmpty : s.closedAccEmpty
  codeOfBin : s.codeOfBin
  busyIffPend : s.busyIffPend
  pendAccepted : s.pendAccepted

/-- A run has ended: the host has performed its last statement and BUSY = 0 (70_reset_and_hazards.md R251). -/
abbrev State.Final (s : State) : Prop := s.env.hostOps = [] ∧ s.busy = false

/-- No state element of the block differs: only the model's environment may. -/
abbrev State.SameBlock (s t : State) : Prop := t = { s with env := t.env }

/-- Every state element of the block has its reset value (10_state.md R46). -/
structure State.BlockIsReset (s : State) : Prop where
  secret : s.secret = Vector.replicate 64 0x00
  len : s.len = 0
  acc : s.acc = 0
  bits : s.bits = 0
  kstate : s.kstate = .loading
  ctr : s.ctr = 0
  digest : s.digest = Vector.replicate 20 0x00
  toff : s.toff = 0
  tbin : s.tbin = 0
  code : s.code = 0
  err : s.err = 0
  busy : s.busy = false
  pend : s.pend = none

/-- The move is a 4-byte write of v at the offset, named by the offset or by its address (20_memory.md R51). -/
abbrev HostOp.writesAt (op : HostOp) (off : Nat) (v : Word) : Prop :=
  op = .write off 4 v ∨ op = .writeAt (Config.base + off) 4 v

/-- The host moves that reset the block: the platform's reset, and a legal write of 0x0000000F to CMD
(70_reset_and_hazards.md R240; 20_memory.md R63). -/
def HostOp.resetsBlock : HostOp → Bool
  | .reset => true
  | .write off n v => off == 0x04 && n == 4 && v == 0x0000000F
  | .writeAt addr n v => addr == Config.base + 0x04 && n == 4 && v == 0x0000000F
  | .read _ _ => false
  | .readAt _ _ => false
  | .check _ _ => false
  | .poll => false
  | .idle => false

/-- Between commands: nothing is in flight and nothing is waited for. -/
abbrev State.Quiet (s : State) : Prop := s.busy = false ∧ s.pend = none ∧ s.env.wait = 0

/-- The register bits that present an element of a command's write set: the third column of the table of 20_memory.md
R64, written out as literals, apart from the write sets by which the machine draws. -/
def busyMask : Instr → Reg → Word
  | .keyclr, .key _ => 0xFFFFFFFF
  | .keyclr, .status => 0x007F7F76
  | .b32Char _, .key _ => 0xFFFFFFFF
  | .b32Char _, .status => 0x007F7F76
  | .b32Char _, .err => 0x00000022
  | .b32End, .status => 0x007F0076
  | .b32End, .err => 0x00000021
  | .hmac, .digest _ => 0xFFFFFFFF
  | .hmac, .err => 0x00000004
  | .trunc, .toff => 0x0000000F
  | .trunc, .tbin => 0x7FFFFFFF
  | .trunc, .code => 0x000FFFFF
  | .totp, .digest _ => 0xFFFFFFFF
  | .totp, .toff => 0x0000000F
  | .totp, .tbin => 0x7FFFFFFF
  | .totp, .code => 0x000FFFFF
  | .totp, .err => 0x00000004
  | _, _ => 0

/-- The values the host's reads returned, oldest first (70_reset_and_hazards.md R251). -/
def State.readValues (s : State) : List Word :=
  s.env.obs.reverse.filterMap fun r =>
    match r with
    | .data _ v => some v
    | .checked _ v _ => some v
    | .written _ => none
    | .busError _ => none
    | .notReached _ => none

/-- Every `RD <reg>, =<imm32>` so far read the value it expects (30_encoding.md R88). -/
def State.checksPassed (s : State) : Bool :=
  s.env.obs.all fun r =>
    match r with
    | .checked _ v e => v == e
    | .busError _ => true
    | .data _ _ => true
    | .written _ => true
    | .notReached _ => true

/-- The next state of an outcome, if there is one. -/
def nextState : Host.Outcome State Fault Refusal → Option State
  | .next t => some t
  | .fault _ => none
  | .refused _ => none

/-- The commands in order, each meaning applied to the state the one before left; it ends at the first stop. -/
def execAll : List Instr → State → Option State
  | [], s => some s
  | i :: is, s => (nextState (exec i s)).bind (execAll is)

/-- The commands of `LOADKEY "s"`: KEYCLR, one B32_CHAR per byte, B32_END (30_encoding.md R89, 40_base32.md R107). -/
def loadKeyCommands (bytes : List Byte) : List Instr := .keyclr :: (bytes.map .b32Char ++ [.b32End])

/-- The decoder right after KEYCLR or reset: open, with no byte and no bit (40_base32.md R106). -/
abbrev State.Opened (s : State) : Prop := s.kstate = .loading ∧ s.len = 0 ∧ s.acc = 0 ∧ s.bits = 0

/-- The 5-bit values of the symbols of a string, in order; every other character is skipped (40_base32.md R100). -/
def symbols (bytes : List Byte) : List (BitVec 5) := bytes.filterMap b32val

/-- The concatenation of 5-bit values read as one number, the first value most significant (40_base32.md R106). -/
def symbolsNat (vs : List (BitVec 5)) : Nat := vs.foldl (fun n v => n * 32 + v.toNat) 0

/-- A byte string read as one number, the first byte most significant. -/
def bytesNat (bs : List Byte) : Nat := bs.foldl (fun n b => n * 256 + b.toNat) 0

end Sys2Proof.Machine
end

