-- ==== Sys2Proof/Certificates/Slice0/Obligations.lean ====
section
/-! DEFINITION. The statements for the provers, each with the rules of spec/ it comes from. -/

open Sys2Proof Sys2Proof.Machine

/-! ### Encoding -/

/-- 30_encoding.md R83, R84, R85 on words of each command and of each class of illegal word (95_test_vectors.md E-01 to
E-08). -/
def Obligations.CommandWordsDecode : Prop :=
  decode 0x00000000 = .ok .nop ∧ decode 0x00000001 = .ok .keyclr ∧ decode 0x00004D02 = .ok (.b32Char 0x4D) ∧
  decode 0x0000FF02 = .ok (.b32Char 0xFF) ∧ decode 0x00000003 = .ok .b32End ∧ decode 0x00000004 = .ok .hmac ∧
  decode 0x00000005 = .ok .trunc ∧ decode 0x00000006 = .ok .totp ∧ decode 0x0000000F = .ok .sreset ∧
  decode 0x00000100 = .error .dataNotZero ∧ decode 0x00000107 = .error .dataNotZero ∧
  decode 0x000000FF = .error .reservedOpcode ∧ decode 0x00010004 = .error .reservedBits ∧
  decode 0x00010002 = .error .reservedBits ∧ decode 0x0000010F = .error .dataNotZero

/-- 30_encoding.md R83: a word decodes to a command exactly when it selects that command's row, `v & mask = match`, with
the character in bits 15:8; and no word selects two rows. -/
def Obligations.OpcodeMapIsExact : Prop :=
  (∀ (v : Word) (i : Instr), decode v = .ok i ↔
    (v &&& 0xFFFFFFFF#32 = 0x00000000#32 ∧ i = .nop) ∨
    (v &&& 0xFFFFFFFF#32 = 0x00000001#32 ∧ i = .keyclr) ∨
    (v &&& 0xFFFF00FF#32 = 0x00000002#32 ∧ i = .b32Char (v.extractLsb' 8 8)) ∨
    (v &&& 0xFFFFFFFF#32 = 0x00000003#32 ∧ i = .b32End) ∨
    (v &&& 0xFFFFFFFF#32 = 0x00000004#32 ∧ i = .hmac) ∨
    (v &&& 0xFFFFFFFF#32 = 0x00000005#32 ∧ i = .trunc) ∨
    (v &&& 0xFFFFFFFF#32 = 0x00000006#32 ∧ i = .totp) ∨
    (v &&& 0xFFFFFFFF#32 = 0x0000000F#32 ∧ i = .sreset)) ∧
  (∀ v : Word, legalWord v = true ↔ ∃ i, decode v = .ok i) ∧
  (∀ v : Word, (opRows.filter fun r => r.selects v).length ≤ 1)

/-- 30_encoding.md R85: the illegal words are exactly the three classes, and writing one sets ILLEGAL_CMD while idle and
BUSY_VIOLATION while busy, with no other effect. -/
def Obligations.IllegalWordsAreExact : Prop :=
  ∀ v : Word,
    ((∃ e, decode v = .error e) ↔
      v.extractLsb' 16 16 ≠ 0#16 ∨
      (v.extractLsb' 0 8 ≠ 0x02#8 ∧ v.extractLsb' 8 8 ≠ 0#8) ∨
      (0x07 ≤ (v.extractLsb' 0 8).toNat ∧ (v.extractLsb' 0 8).toNat ≤ 0x0E) ∨
      0x10 ≤ (v.extractLsb' 0 8).toNat) ∧
    ((∃ e, decode v = .error e) → ∀ s : State,
      issue v s = .next { s with err := s.err ||| if s.busy then 0x10#6 else 0x08#6 })

/-- 30_encoding.md R83, R84, R88: decoding the encoding of any command gives it back with its operand, and every word
that decodes to a command is that command's encoding. -/
def Obligations.DecodeEncodeAgree : Prop :=
  (∀ i : Instr, i.wellFormed = true → decode (encode i) = .ok i) ∧
  (∀ (v : Word) (i : Instr), decode v = .ok i → encode i = v)

/-! ### The step -/

/-- The step around exec (20_memory.md R62, R63, R67; log 2, log 8, log 11): on the engine's turn it is exec of the command in
flight and then PEND <- none, BUSY <- 0; on the host's turn, idle, with a legal CMD write next, the word's command is
accepted, with a latency that is free for each acceptance, command and block state (70_reset_and_hazards.md R250), or
performed at once if it is NOP or SRESET; and a word placed by withFetchWord is run by the very next step. A reset, by
SRESET or by the platform, keeps the model's environment but for the waiting time (the model's choice, log 8). On every
turn that is not the engine's a step is the host's next move, whatever it is, made once the move is taken off the list and
one move of the latency has passed (log 1, log 13). -/
def Obligations.StepRunsTheCommand : Prop :=
  (∀ (s t : State) (c : Instr), s.busy = true → s.env.wait = 0 → s.pend = some c → exec c s = .next t →
    step s = .next { t with pend := none, busy := false }) ∧
  (∀ (s : State) (v : Word) (c : Instr) (rest : List HostOp), s.busy = false →
    s.env.hostOps = .write 0x04 4 v :: rest → decode v = .ok c →
    let env : Env := { s.env with hostOps := rest, obs := .written 0x04 :: s.env.obs, wait := s.env.wait - 1 }
    step s =
      if c.mayBeInFlight then
        .next { s with
          pend := some c, busy := true
          env := { env with wait := Config.latency s.env.accepted c s.block, accepted := s.env.accepted + 1 } }
      else exec c { s with env := env }) ∧
  (∀ (s t : State) (w : Nat) (c : Instr), decodeTableWord 32 w = some c → c.mayBeInFlight = true →
    exec c (s.withFetchWord 32 w) = .next t →
    step (s.withFetchWord 32 w) = .next { t with pend := none, busy := false }) ∧
  (∀ (s : State) (w : Nat) (c : Instr), decodeTableWord 32 w = some c → c.mayBeInFlight = false →
    step (s.withFetchWord 32 w) =
      exec c { s with
        pend := none, busy := false
        env := { s.env with obs := .written 0x04 :: s.env.obs, wait := s.env.wait - 1 } }) ∧
  (∀ s t : State, exec .sreset s = .next t ∨ performOp .reset s = .next t → t.env = { s.env with wait := 0 }) ∧
  (∀ s : State, engineMoves s = true ↔ s.busy = true ∧ s.env.wait = 0) ∧
  (∀ (s : State) (op : HostOp) (rest : List HostOp), engineMoves s = false → s.env.hostOps = op :: rest →
    let u : State := { s with env := { s.env with hostOps := rest, wait := s.env.wait - 1 } }
    step s = performOp op u ∧
    (∀ off n v, op = .write off n v → step s = memWrite off n v u) ∧
    (∀ off n, op = .read off n → step s = .next (memRead off n (.data off) u)) ∧
    (op = .idle → step s = .next u) ∧
    (op = .reset → ∃ t, step s = .next t ∧ t.BlockIsReset)) ∧
  (∀ s : State, engineMoves s = false → s.env.hostOps = [] →
    step s = .next { s with env := { s.env with wait := s.env.wait - 1 } })

/-- 20_memory.md R62: under the invariants `complete` never faults and never gets stuck, and it leaves the block idle;
so no step of the machine stops. -/
def Obligations.NoStepStops : Prop :=
  ∀ s : State, s.Inv →
    (s.busy = true → ∃ t, complete s = .next t ∧ t.busy = false ∧ t.pend = none) ∧ ∃ t, step s = .next t

/-- 10_state.md R32: every step keeps the invariants I1 to I7, and that only an accepted command is in flight. -/
def Obligations.StepKeepsInv : Prop := ∀ s t : State, s.Inv → step s = .next t → t.Inv

/-- 10_state.md R46: the reset values satisfy every invariant of R32. -/
def Obligations.ResetMeetsInv : Prop := State.reset.Inv

/-- 10_state.md R32, I1 to I7 written out: every state that some host reaches from reset, whatever accesses it makes and
whatever latencies are drawn. -/
def Obligations.ReachableStatesMeetR32 : Prop :=
  ∀ (ops : List HostOp) (n : Nat) (t : State),
    core.run n { State.reset with env := { Env.initial with hostOps := ops } } = .next t →
      t.len.toNat ≤ 64 ∧
      (t.bits.toNat ≤ 7 ∧ t.acc.toNat < 2 ^ t.bits.toNat) ∧
      (∀ i : Fin 64, t.len.toNat ≤ i.val → t.secret[i.val] = 0x00) ∧
      (t.kstate = .valid → 1 ≤ t.len.toNat ∧ t.len.toNat ≤ 64) ∧
      (t.kstate ≠ .loading → t.acc = 0 ∧ t.bits = 0) ∧
      (t.toff.toNat ≤ 15 ∧ t.tbin.toNat < 2 ^ 31 ∧ t.code.toNat = t.tbin.toNat % 1000000) ∧
      (t.busy = true ↔ t.pend ≠ none)

/-- 00_scope.md R10, 20_memory.md R62, R59, R66: an accepted command completes once its latency's host moves have
passed, on the operands it was accepted with, unless the host resets the block. -/
def Obligations.AcceptedCommandCompletes : Prop :=
  ∀ (s : State) (c : Instr), s.busy = true → s.pend = some c →
    (∀ op ∈ s.env.hostOps.take s.env.wait, op.resetsBlock = false) →
    ∃ u : State,
      core.run s.env.wait s = .next u ∧
      u = { s with err := u.err, env := u.env } ∧ u.env.wait = 0 ∧
      (u.err = s.err ∨ u.err = s.err ||| 0x10#6) ∧
      ∀ t : State, exec c u = .next t → core.run (s.env.wait + 1) s = .next { t with pend := none, busy := false }

/-- 30_encoding.md R89, 20_memory.md R62, R63, R67: commands issued one by one with CMDW, of any kind, take effect in
order, each on the state the one before left, whatever latencies are drawn. -/
def Obligations.PolledCommandsRunInOrder : Prop :=
  ∀ (cs : List Instr) (rest : List HostOp) (s t : State),
    s.Quiet → s.env.hostOps = cs.flatMap cmdwOps ++ rest →
    execAll cs s = some t →
    ∃ (n : Nat) (u : State), core.run n s = .next u ∧ t.SameBlock u ∧ u.Quiet ∧ u.env.hostOps = rest

/-- 70_reset_and_hazards.md R251, R241: in the state a run ends in no `complete` is enabled, and a step changes no
element of the block and leaves the run ended; and a state with BUSY = 1 is never final. -/
def Obligations.FinalStateRests : Prop :=
  (∀ s : State, s.Final → engineMoves s = false ∧ ∃ t, step s = .next t ∧ s.SameBlock t ∧ t.Final) ∧
  (∀ s : State, s.busy = true → ¬ s.Final)

/-! ### Reset and the control commands -/

/-- 10_state.md R46: hardware reset and SRESET set every state element to its reset value, from every state; these
values satisfy every invariant of R32, and the results are what the truncation of the all-zero digest gives. -/
def Obligations.ResetSetsEveryElement : Prop :=
  ∀ s : State,
    (∃ t, performOp .reset s = .next t ∧ t.BlockIsReset) ∧ (∃ t, exec .sreset s = .next t ∧ t.BlockIsReset) ∧
    (s.BlockIsReset → s.Inv ∧
      truncOffset s.digest = s.toff ∧ truncBin s.digest = s.tbin ∧ truncCode s.digest = s.code)

/-- 43_control.md R191: SRESET is word 0x0000000F exactly, performed at issue and accepted even while busy; it leaves
the reset state, raises no error, and abandons the command in flight. Words with another DATA are not SRESET. -/
def Obligations.SresetAtAnyTime : Prop :=
  (∀ v : Word, decode v = .ok .sreset ↔ v = 0x0000000F) ∧
  (∀ s : State, ∃ t, issue 0x0000000F s = .next t ∧ exec .sreset s = .next t ∧ t.BlockIsReset) ∧
  (∀ (v : Word) (s : State), v.extractLsb' 0 8 = 0x0F#8 → v ≠ 0x0000000F →
    issue v s = .next { s with err := s.err ||| if s.busy then 0x10#6 else 0x08#6 })

/-- 43_control.md R190: NOP is word 0x00000000 exactly and has no effect; it is performed at issue, sets no BUSY, and
raises BUSY_VIOLATION if written while busy. 0x00000100 is not NOP. -/
def Obligations.NopDoesNothing : Prop :=
  (∀ v : Word, decode v = .ok .nop ↔ v = 0x00000000) ∧
  (∀ s : State, exec .nop s = .next s) ∧
  (∀ s : State, s.busy = false → issue 0x00000000 s = .next s) ∧
  (∀ s : State, s.busy = true → issue 0x00000000 s = .next { s with err := s.err ||| 0x10#6 }) ∧
  (∀ s : State, s.busy = false → issue 0x00000100 s = .next { s with err := s.err ||| 0x08#6 })

/-! ### Errors -/

/-- 60_exceptions.md R200 with the codes of R201: raising an error sets its own bit of ERR and nothing else, and raising
it again changes nothing. -/
def Obligations.RaiseSetsOneBit : Prop :=
  (∀ (e : ErrBit) (s : State),
    raiseErr e s = { s with err := (raiseErr e s).err } ∧
    (∀ n < 6, (raiseErr e s).err.getLsbD n = (s.err.getLsbD n || decide (n = e.causeCode))) ∧
    raiseErr e (raiseErr e s) = raiseErr e s) ∧
  [ErrBit.invalidSecret, .bufferOverflow, .keyNotReady, .illegalCmd, .busyViolation, .keySealed].map ErrBit.causeCode =
    [0, 1, 2, 3, 4, 5]

/-- 60_exceptions.md R211: a command raises at most one error, and only the ones of its own rule. -/
def Obligations.CommandRaisesAtMostOneError : Prop :=
  (∀ (s t : State), exec .trunc s = .next t → t.err = s.err) ∧
  (∀ (s t : State), exec .keyclr s = .next t → t.err = s.err) ∧
  (∀ (ch : Byte) (s t : State), exec (.b32Char ch) s = .next t →
    (s.kstate = .valid → t.err = s.err ||| 0x20#6) ∧ (s.kstate = .failed → t.err = s.err) ∧
    (s.kstate = .loading →
      t.err = if t.kstate = .failed then s.err ||| 0x02#6 else s.err)) ∧
  (∀ (s t : State), exec .b32End s = .next t →
    (s.kstate = .valid → t.err = s.err ||| 0x20#6) ∧ (s.kstate = .failed → t.err = s.err) ∧
    (s.kstate = .loading → t.err = if s.len = 0 then s.err ||| 0x01#6 else s.err)) ∧
  (∀ (i : Instr) (s t : State), i = .hmac ∨ i = .totp → exec i s = .next t →
    t.err = if s.kstate = .valid then s.err else s.err ||| 0x04#6)

/-- 10_state.md R30: an ERR bit that is set is cleared only by a host write of ERR that holds a 1 there and is made while
idle, by SRESET, or by hardware reset. -/
def Obligations.ErrBitsAreSticky : Prop :=
  ∀ (s t : State) (n : Nat), s.pendAccepted → step s = .next t → s.err.getLsbD n = true → t.err.getLsbD n = false →
    engineMoves s = false ∧
    ∃ op, s.env.hostOps.head? = some op ∧
      (op.resetsBlock = true ∨ ∃ v, op.writesAt 0x0C v ∧ s.busy = false ∧ v.getLsbD n = true)

/-- 60_exceptions.md R210: one write of CMD has exactly one outcome, tested in this order: SRESET, BUSY_VIOLATION,
ILLEGAL_CMD, NOP, acceptance. -/
def Obligations.CommandWriteOutcome : Prop :=
  ∀ (v : Word) (s : State), ∃ t,
    memWrite 0x04 4 v s = .next t ∧
      if v = 0x0000000F then t.BlockIsReset
      else if s.busy = true then { s with err := s.err ||| 0x10#6 }.SameBlock t
      else if (decode v).toOption = none then { s with err := s.err ||| 0x08#6 }.SameBlock t
      else if v = 0x00000000 then s.SameBlock t
      else ∃ c, decode v = .ok c ∧ c.mayBeInFlight = true ∧ { s with pend := some c, busy := true }.SameBlock t

/-! ### The register window -/

/-- 10_state.md R33, R44 and 20_memory.md R51: the offset of each register is the map's, and a read there answers the
value of that register; every aligned offset of the window is exactly one register or reserved
offset, every register is reached at its offset, and an access outside the window does not reach the block. -/
def Obligations.RegisterMapIsTotal : Prop :=
  (∀ r : Reg, r.offset =
    match r with
    | .id => 0x00
    | .cmd => 0x04
    | .status => 0x08
    | .err => 0x0C
    | .ctrLo => 0x10
    | .ctrHi => 0x14
    | .toff => 0x18
    | .tbin => 0x1C
    | .code => 0x20
    | .digest k => 0x24 + 4 * k.val
    | .reserved k => 0x38 + 4 * k.val
    | .key k => 0x40 + 4 * k.val) ∧
  (accessTarget 0x00 4 = .ok .id ∧ accessTarget 0x04 4 = .ok .cmd ∧ accessTarget 0x08 4 = .ok .status ∧
    accessTarget 0x0C 4 = .ok .err ∧ accessTarget 0x10 4 = .ok .ctrLo ∧ accessTarget 0x14 4 = .ok .ctrHi ∧
    accessTarget 0x18 4 = .ok .toff ∧ accessTarget 0x1C 4 = .ok .tbin ∧ accessTarget 0x20 4 = .ok .code ∧
    (∀ k : Fin 5, accessTarget (0x24 + 4 * k.val) 4 = .ok (.digest k)) ∧
    (∀ k : Fin 2, accessTarget (0x38 + 4 * k.val) 4 = .ok (.reserved k)) ∧
    (∀ k : Fin 16, accessTarget (0x40 + 4 * k.val) 4 = .ok (.key k))) ∧
  (∀ (off : Nat) (r : Reg) (mk : Word → Response) (v : Word) (s : State), accessTarget off 4 = .ok r →
    (memRead off 4 mk s).env.obs = mk (readValue r s) :: s.env.obs ∧
    ∃ u, s.SameBlock u ∧ memWrite off 4 v s = writeReg r v u) ∧
  (∀ r : Reg, r.offset % 4 = 0 ∧ r.offset < 0x80 ∧ accessTarget r.offset 4 = .ok r) ∧
  (∀ off : Nat, off < 0x80 → off % 4 = 0 → ∃ r : Reg, r.offset = off ∧ ∀ q : Reg, q.offset = off → q = r) ∧
  (∀ (off n : Nat) (v : Word) (mk : Word → Response) (s : State), 0x80 ≤ off →
    s.SameBlock (memRead off n mk s) ∧ ∃ t, memWrite off n v s = .next t ∧ s.SameBlock t)

/-- 20_memory.md R55: an illegal access (R54) answers BusError and changes nothing in the block. -/
def Obligations.IllegalAccessIsBusError : Prop :=
  ∀ (off n : Nat) (v : Word) (mk : Word → Response) (s : State), off < 0x80 → ¬ (n = 4 ∧ off % 4 = 0) →
    memRead off n mk s = { s with env := { s.env with obs := .busError off :: s.env.obs } } ∧
    memWrite off n v s = .next { s with env := { s.env with obs := .busError off :: s.env.obs } }

/-- 20_memory.md R56, R58: a legal read answers the register's read value and changes no state of the block; while idle
the value is exact, so a repeated read answers the same. -/
def Obligations.ReadsHaveNoSideEffect : Prop :=
  ∀ (r : Reg) (mk : Word → Response) (s : State),
    s.SameBlock (memRead r.offset 4 mk s) ∧
    (memRead r.offset 4 mk s).env.obs = mk (readValue r s) :: s.env.obs ∧
    (memRead r.offset 4 mk s).env.hostOps = s.env.hostOps ∧
    (s.busy = false → readValue r s = regValue r s ∧ readValue r (memRead r.offset 4 mk s) = readValue r s)

/-- 20_memory.md R64, R65: while busy, exactly the bits of the third column of R64's table (`busyMask`, written out as
literals) are the free draw, and every other bit is exact; BUSY reads 1 and reserved bits read 0. That every read made
while busy takes a new word, drawn bits or not, is the model's choice (log 3). -/
def Obligations.BusyReadsDrawTheWriteSet : Prop :=
  ∀ (s : State) (c : Instr) (r : Reg), s.busy = true → s.pend = some c →
    (∀ n < 32, (readValue r s).getLsbD n =
      if (busyMask c r).getLsbD n = true then (Config.readDraw s.env.draws r s.block).getLsbD n
      else (regValue r s).getLsbD n) ∧
    (∀ n < 32, (busyMask c r).getLsbD n = true ↔ ∃ x ∈ writeSet c, (presentedBits x r).getLsbD n = true) ∧
    (∀ mk, (memRead r.offset 4 mk s).env.draws = s.env.draws + 1) ∧
    (readValue .status s).getLsbD 0 = true ∧
    readValue .status s &&& 0xFF808088 = 0 ∧ readValue .err s &&& 0xFFFFFFC0 = 0 ∧
    readValue .toff s &&& 0xFFFFFFF0 = 0 ∧ readValue .tbin s &&& 0x80000000 = 0 ∧
    readValue .code s &&& 0xFFF00000 = 0 ∧ readValue .id s = 0x544F5450 ∧ readValue .cmd s = 0 ∧
    ∀ k, readValue (.reserved k) s = 0

/-- 20_memory.md R66: a write made while busy to CMD (any word but 0x0000000F), ERR, CTR_LO, CTR_HI or DIGESTk is
discarded and sets BUSY_VIOLATION alone; a write to any other register has no effect; 0x0000000F to CMD resets. -/
def Obligations.BusyWritesAreDiscarded : Prop :=
  ∀ (r : Reg) (v : Word) (s : State), s.busy = true → ∃ t, memWrite r.offset 4 v s = .next t ∧
    match r with
    | .cmd =>
      if v = 0x0000000F then t.BlockIsReset
      else t = { s with err := s.err ||| 0x10#6, env := { s.env with obs := .written r.offset :: s.env.obs } }
    | .err | .ctrLo | .ctrHi | .digest _ =>
      t = { s with err := s.err ||| 0x10#6, env := { s.env with obs := .written r.offset :: s.env.obs } }
    | .id | .status | .toff | .tbin | .code | .reserved _ | .key _ =>
      t = { s with env := { s.env with obs := .written r.offset :: s.env.obs } }

/-- 10_state.md R36: where every field of STATUS stands and its legal values; the reserved bits read 0, the reset value
is 0, and a write is ignored. -/
def Obligations.StatusFields : Prop :=
  ∀ s : State,
    let v := regValue .status s
    v.getLsbD 0 = s.busy ∧
    (v.extractLsb' 1 2).toNat = (match s.kstate with | .loading => 0 | .valid => 1 | .failed => 2) ∧
    v.extractLsb' 4 3 = s.bits ∧ v.extractLsb' 8 7 = s.len ∧ v.extractLsb' 16 7 = s.acc ∧
    v.getLsbD 3 = false ∧ v.getLsbD 7 = false ∧ v.getLsbD 15 = false ∧ v.extractLsb' 23 9 = 0 ∧
    (s.lenInRange → s.accInBits →
      (v.extractLsb' 8 7).toNat ≤ 64 ∧ (v.extractLsb' 16 7).toNat < 2 ^ (v.extractLsb' 4 3).toNat) ∧
    (s.BlockIsReset → v = 0) ∧
    ∀ w, ∃ t, memWrite 0x08 4 w s = .next t ∧ s.SameBlock t

/-- 10_state.md R34, R35, R39, R40, R41, R44: what ID, CMD, TOFF, TBIN, CODE and the reserved offsets read, and that a
write to the read-only ones is ignored without error. ID, CMD and the reserved offsets read so while busy too. A write of
CMD issues its word. The reserved offsets of the window are exactly 0x38 and 0x3C. -/
def Obligations.ReadOnlyRegisters : Prop :=
  (∀ s : State, readValue .id s = 0x544F5450 ∧ readValue .cmd s = 0 ∧ ∀ k, readValue (.reserved k) s = 0) ∧
  (∀ (mk : Word → Response) (s : State), s.SameBlock (memRead 0x04 4 mk s)) ∧
  (∀ (v : Word) (s : State), ∃ u, s.SameBlock u ∧ memWrite 0x04 4 v s = issue v u) ∧
  (∀ off : Nat, off < 0x80 → off % 4 = 0 →
    ((∃ k, accessTarget off 4 = .ok (.reserved k)) ↔ off = 0x38 ∨ off = 0x3C)) ∧
  (∀ s : State, s.busy = false →
    (readValue .toff s).toNat = s.toff.toNat ∧ (readValue .toff s).extractLsb' 4 28 = 0 ∧
    (readValue .tbin s).toNat = s.tbin.toNat ∧ (readValue .tbin s).getLsbD 31 = false ∧
    (readValue .code s).toNat = s.code.toNat ∧ (readValue .code s).extractLsb' 20 12 = 0 ∧
    (s.codeOfBin → (readValue .code s).toNat ≤ 999999)) ∧
  (∀ (off : Nat) (v : Word) (s : State), off ∈ [0x00, 0x18, 0x1C, 0x20, 0x38, 0x3C] →
    ∃ t, memWrite off 4 v s = .next t ∧ s.SameBlock t)

/-- 10_state.md R37, the write of ERR while idle and its reads: each bit written as 1 is cleared, each other bit and
every other element is kept, and bits 31:6 are ignored and read 0. -/
def Obligations.ErrWriteClearsOnes : Prop :=
  ∀ (v : Word) (s : State), s.busy = false → ∃ t, memWrite 0x0C 4 v s = .next t ∧
    (∀ n < 6, t.err.getLsbD n = (s.err.getLsbD n && !v.getLsbD n)) ∧ { s with err := t.err }.SameBlock t ∧
    (regValue .err t).extractLsb' 0 6 = t.err ∧ (regValue .err t).extractLsb' 6 26 = 0

/-- 10_state.md R38: CTR_LO and CTR_HI read the halves of the counter; each write, while idle, replaces its own half and
nothing else, and is discarded with BUSY_VIOLATION while busy. -/
def Obligations.CounterHalves : Prop :=
  ∀ (v : Word) (s : State),
    ((regValue .ctrHi s).toNat * 2 ^ 32 + (regValue .ctrLo s).toNat = s.ctr.toNat) ∧
    (∃ t, memWrite 0x10 4 v s = .next t ∧
      if s.busy = true then { s with err := s.err ||| 0x10#6 }.SameBlock t
      else { s with ctr := t.ctr }.SameBlock t ∧ regValue .ctrLo t = v ∧ regValue .ctrHi t = regValue .ctrHi s) ∧
    (∃ t, memWrite 0x14 4 v s = .next t ∧
      if s.busy = true then { s with err := s.err ||| 0x10#6 }.SameBlock t
      else { s with ctr := t.ctr }.SameBlock t ∧ regValue .ctrHi t = v ∧ regValue .ctrLo t = regValue .ctrLo s)

/-- 10_state.md R42: DIGESTk presents digest bytes 4k to 4k+3, the lowest index in bits 31:24; a write, while idle,
replaces those four bytes and nothing else, and is discarded with BUSY_VIOLATION while busy; after HMAC it reads the
SHA-1 output word H_k. -/
def Obligations.DigestRegisters : Prop :=
  (∀ (k : Fin 5) (s : State),
    (regValue (.digest k) s).extractLsb' 24 8 = s.digest[4 * k.val]'(by omega) ∧
    (regValue (.digest k) s).extractLsb' 16 8 = s.digest[4 * k.val + 1]'(by omega) ∧
    (regValue (.digest k) s).extractLsb' 8 8 = s.digest[4 * k.val + 2]'(by omega) ∧
    (regValue (.digest k) s).extractLsb' 0 8 = s.digest[4 * k.val + 3]'(by omega)) ∧
  (∀ (k : Fin 5) (v : Word) (s : State), ∃ t, memWrite (0x24 + 4 * k.val) 4 v s = .next t ∧
    if s.busy = true then { s with err := s.err ||| 0x10#6 }.SameBlock t
    else { s with digest := t.digest }.SameBlock t ∧ regValue (.digest k) t = v ∧
      ∀ j : Fin 5, j ≠ k → regValue (.digest j) t = regValue (.digest j) s) ∧
  (∀ s : State, s.kstate = .valid → ∃ (t : State) (h : Hash), exec .hmac s = .next t ∧ stateHmac s = digestBytes h ∧
    regValue (.digest 0) t = h.h0 ∧ regValue (.digest 1) t = h.h1 ∧ regValue (.digest 2) t = h.h2 ∧
    regValue (.digest 3) t = h.h3 ∧ regValue (.digest 4) t = h.h4)

/-- 10_state.md R43: KEYk presents key bytes 4k to 4k+3, the lowest index in bits 31:24; bytes at LEN and above read
0x00; a write has no effect. -/
def Obligations.KeyRegisters : Prop :=
  ∀ (k : Fin 16) (s : State), s.tailZero →
    (∀ j : Fin 4, (regValue (.key k) s).extractLsb' (24 - 8 * j.val) 8 = s.secret[4 * k.val + j.val]'(by omega)) ∧
    (∀ j : Fin 4, s.len.toNat ≤ 4 * k.val + j.val → (regValue (.key k) s).extractLsb' (24 - 8 * j.val) 8 = 0) ∧
    (∀ v, ∃ t, memWrite (0x40 + 4 * k.val) 4 v s = .next t ∧ s.SameBlock t)

/-! ### What commands change -/

/-- 20_memory.md R64: a command changes nothing outside its write set, element by element. This is the frame of KEYCLR,
B32_CHAR, B32_END, HMAC, TRUNC, TOTP and NOP: every element not named in the record update is unchanged. -/
def Obligations.CommandsKeepTheirWriteSet : Prop :=
  (∀ s t : State, exec .nop s = .next t → t = s) ∧
  (∀ s t : State, exec .keyclr s = .next t →
    t = { s with secret := t.secret, len := t.len, acc := t.acc, bits := t.bits, kstate := t.kstate }) ∧
  (∀ (ch : Byte) (s t : State), exec (.b32Char ch) s = .next t →
    t = { s with secret := t.secret, len := t.len, acc := t.acc, bits := t.bits, kstate := t.kstate, err := t.err } ∧
    t.err &&& 0x1D#6 = s.err &&& 0x1D#6) ∧
  (∀ s t : State, exec .b32End s = .next t →
    t = { s with acc := t.acc, bits := t.bits, kstate := t.kstate, err := t.err } ∧
    t.err &&& 0x1E#6 = s.err &&& 0x1E#6) ∧
  (∀ s t : State, exec .hmac s = .next t →
    t = { s with digest := t.digest, err := t.err } ∧ t.err &&& 0x3B#6 = s.err &&& 0x3B#6) ∧
  (∀ s t : State, exec .trunc s = .next t → t = { s with toff := t.toff, tbin := t.tbin, code := t.code }) ∧
  (∀ s t : State, exec .totp s = .next t →
    t = { s with digest := t.digest, toff := t.toff, tbin := t.tbin, code := t.code, err := t.err } ∧
    t.err &&& 0x3B#6 = s.err &&& 0x3B#6)

/-- 20_memory.md R64, R65: a register bit outside the third column of R64's table (`busyMask`, written out as literals)
has the same value before and after the command, so that its reads while busy are exact. -/
def Obligations.UndrawnBitsAreStable : Prop :=
  ∀ (c : Instr) (s t : State) (r : Reg), c.mayBeInFlight = true → exec c s = .next t →
    regValue r t &&& ~~~(busyMask c r) = regValue r s &&& ~~~(busyMask c r)

/-- 10_state.md R26, 00_scope.md §6 (Sealed key): only KEYCLR, SRESET and hardware reset leave VALID or FAILED, and they
leave it for LOADING; any other step keeps a sealed key and its length. -/
def Obligations.SealedKeyIsImmutable : Prop :=
  ∀ s t : State, s.pendAccepted → step s = .next t → s.kstate ≠ .loading →
    (t.kstate = s.kstate ∧ t.secret = s.secret ∧ t.len = s.len) ∨
    (t.kstate = .loading ∧
      ((engineMoves s = true ∧ s.pend = some .keyclr) ∨
       (engineMoves s = false ∧ ∃ op, s.env.hostOps.head? = some op ∧ op.resetsBlock = true)))

/-- 10_state.md R27, R28, R29, 70_reset_and_hazards.md R243: the only steps that change the counter, the digest and the
results. -/
def Obligations.OnlyTheseStepsChangeResults : Prop :=
  ∀ s t : State, s.pendAccepted → step s = .next t →
    (t.ctr ≠ s.ctr → engineMoves s = false ∧ ∃ op, s.env.hostOps.head? = some op ∧
      (op.resetsBlock = true ∨ (s.busy = false ∧ ∃ v, op.writesAt 0x10 v ∨ op.writesAt 0x14 v))) ∧
    (t.digest ≠ s.digest →
      (engineMoves s = true ∧ (s.pend = some .hmac ∨ s.pend = some .totp)) ∨
      (engineMoves s = false ∧ ∃ op, s.env.hostOps.head? = some op ∧
        (op.resetsBlock = true ∨ (s.busy = false ∧ ∃ (k : Fin 5) (v : Word), op.writesAt (0x24 + 4 * k.val) v)))) ∧
    (t.toff ≠ s.toff ∨ t.tbin ≠ s.tbin ∨ t.code ≠ s.code →
      (engineMoves s = true ∧ (s.pend = some .trunc ∨ s.pend = some .totp)) ∨
      (engineMoves s = false ∧ ∃ op, s.env.hostOps.head? = some op ∧ op.resetsBlock = true))

/-! ### The Base32 decoder -/

/-- 40_base32.md R100: 'A'..'Z' and 'a'..'z' map to 0..25, '2'..'7' to 26..31, and every other code to none. -/
def Obligations.SymbolMap : Prop :=
  ∀ c : Byte, (b32val c).map BitVec.toNat =
    if 0x41 ≤ c.toNat ∧ c.toNat ≤ 0x5A then some (c.toNat - 0x41)
    else if 0x61 ≤ c.toNat ∧ c.toNat ≤ 0x7A then some (c.toNat - 0x61)
    else if 0x32 ≤ c.toNat ∧ c.toNat ≤ 0x37 then some (c.toNat - 0x32 + 26)
    else none

/-- 40_base32.md R102: from an accumulator value below 2^bits, the step loses no bit: the buffered number times 32 plus
the symbol is the emitted byte times 2^bits' plus the new buffered number, which is below 2^bits'; a byte is emitted
exactly when 8 bits are buffered. -/
def Obligations.AccumulatorStep : Prop :=
  ∀ (acc : BitVec 7) (bits : BitVec 3) (v : BitVec 5), acc.toNat < 2 ^ bits.toNat →
    match accStep acc bits v with
    | (a, k, none) =>
      bits.toNat + 5 < 8 ∧ k.toNat = bits.toNat + 5 ∧ a.toNat = acc.toNat * 32 + v.toNat ∧ a.toNat < 2 ^ k.toNat
    | (a, k, some out) =>
      8 ≤ bits.toNat + 5 ∧ k.toNat = bits.toNat + 5 - 8 ∧ a.toNat < 2 ^ k.toNat ∧
      acc.toNat * 32 + v.toNat = out.toNat * 2 ^ k.toNat + a.toNat

/-- 40_base32.md R103: KEYCLR, word 0x00000001, zeroes the key store and the accumulator and opens the decode from every
key state, and changes nothing else; written while busy it raises BUSY_VIOLATION. -/
def Obligations.KeyclrOpensTheDecode : Prop :=
  (∀ v : Word, decode v = .ok .keyclr ↔ v = 0x00000001) ∧
  (∀ s : State, ∃ t, exec .keyclr s = .next t ∧ (∀ i : Fin 64, t.secret[i.val] = 0x00) ∧
    t = { s with secret := t.secret, len := 0, acc := 0, bits := 0, kstate := .loading } ∧
    regValue .status { t with pend := none, busy := false } = 0 ∧ ∀ k : Fin 16, regValue (.key k) t = 0) ∧
  (∀ s : State, s.busy = true → issue 0x00000001 s = .next { s with err := s.err ||| 0x10#6 })

/-- 40_base32.md R104: what B32_CHAR does in each key state, for every character, and its
example; it always answers a next state. -/
def Obligations.B32CharFeedsOneCharacter : Prop :=
  (∀ ch : Byte, decode (0x00000002 ||| (ch.setWidth 32 <<< 8)) = .ok (.b32Char ch)) ∧
  (∀ (ch : Byte) (s : State), s.kstate = .valid →
    exec (.b32Char ch) s = .next { s with err := s.err ||| 0x20#6 }) ∧
  (∀ (ch : Byte) (s : State), s.kstate = .failed → exec (.b32Char ch) s = .next s) ∧
  (∀ (ch : Byte) (s : State), s.kstate = .loading → b32val ch = none → exec (.b32Char ch) s = .next s) ∧
  (∀ (ch : Byte) (m : BitVec 5) (s : State), s.kstate = .loading → s.accInBits → s.lenInRange → b32val ch = some m →
    ∃ t, exec (.b32Char ch) s = .next t ∧
      if s.bits.toNat + 5 < 8 then
        t = { s with acc := t.acc, bits := t.bits } ∧
        t.acc.toNat = s.acc.toNat * 32 + m.toNat ∧ t.bits.toNat = s.bits.toNat + 5
      else if s.len.toNat = 64 then
        t = { s with err := s.err ||| 0x02#6, kstate := .failed, acc := 0, bits := 0 }
      else
        t = { s with secret := t.secret, len := t.len, acc := t.acc, bits := t.bits } ∧
        t.len.toNat = s.len.toNat + 1 ∧ t.bits.toNat = s.bits.toNat - 3 ∧ t.acc.toNat < 2 ^ t.bits.toNat ∧
        (∀ i : Fin 64, i.val ≠ s.len.toNat → t.secret[i.val] = s.secret[i.val]) ∧
        ∀ i : Fin 64, i.val = s.len.toNat →
          s.acc.toNat * 32 + m.toNat = t.secret[i.val].toNat * 2 ^ t.bits.toNat + t.acc.toNat) ∧
  (∃ t u, exec (.b32Char 0x4D) State.reset = .next t ∧ t.acc = 12 ∧ t.bits = 5 ∧ t.len = 0 ∧
    exec (.b32Char 0x46) t = .next u ∧ u.secret[0] = 0x61 ∧ u.len = 1 ∧ u.acc = 1 ∧ u.bits = 2)

/-- 40_base32.md R105: what B32_END does in each key state, and its example, the string "MFRGG==="; it always answers a
next state. -/
def Obligations.B32EndSealsTheKey : Prop :=
  (∀ v : Word, decode v = .ok .b32End ↔ v = 0x00000003) ∧
  (∀ s : State, s.kstate = .valid → exec .b32End s = .next { s with err := s.err ||| 0x20#6 }) ∧
  (∀ s : State, s.kstate = .failed → exec .b32End s = .next s) ∧
  (∀ s : State, s.kstate = .loading → s.len.toNat = 0 →
    exec .b32End s = .next { s with acc := 0, bits := 0, kstate := .failed, err := s.err ||| 0x01#6 }) ∧
  (∀ s : State, s.kstate = .loading → 0 < s.len.toNat →
    exec .b32End s = .next { s with acc := 0, bits := 0, kstate := .valid }) ∧
  (∀ s : State, ∃ t, execAll (loadKeyCommands [0x4D, 0x46, 0x52, 0x47, 0x47, 0x3D, 0x3D, 0x3D]) s = some t ∧
    t.kstate = .valid ∧ t.len = 3 ∧ regValue (.key 0) t = 0x61626300 ∧ t.bits = 0 ∧ t.acc = 0)

/-- 40_base32.md R106: after k symbols from an opened decode, with no overflow, LEN = 5k div 8, BITS = 5k mod 8 and ACC
holds the low BITS bits; the overflow comes on exactly symbol 104; with 103 symbols the key is 64 bytes and seals. -/
def Obligations.DecoderCountsSymbols : Prop :=
  ∀ (bytes : List Byte) (s : State), s.Opened →
    ∃ t, execAll (bytes.map .b32Char) s = some t ∧
      ((symbols bytes).length ≤ 103 →
        t.kstate = .loading ∧ t.err = s.err ∧ t.len.toNat = 5 * (symbols bytes).length / 8 ∧
        t.bits.toNat = 5 * (symbols bytes).length % 8 ∧
        t.acc.toNat = symbolsNat (symbols bytes) % 2 ^ t.bits.toNat) ∧
      (104 ≤ (symbols bytes).length → t.kstate = .failed ∧ t.err = s.err ||| 0x02#6) ∧
      ((symbols bytes).length = 103 → ∃ u, exec .b32End t = .next u ∧ u.kstate = .valid ∧ u.len.toNat = 64)

/-- 40_base32.md R107: the three outcomes of a string, which exclude one another; a valid key's bytes are the symbols'
bits, first symbol most significant, less the leftover bits. -/
def Obligations.LoadKeyOutcomes : Prop :=
  ∀ (bytes : List Byte) (s : State), ∃ t, execAll (loadKeyCommands bytes) s = some t ∧
    ((symbols bytes).length ≤ 1 → t.kstate = .failed ∧ t.len = 0 ∧ t.err = s.err ||| 0x01#6) ∧
    (2 ≤ (symbols bytes).length → (symbols bytes).length ≤ 103 →
      t.kstate = .valid ∧ t.err = s.err ∧ t.len.toNat = 5 * (symbols bytes).length / 8 ∧
      bytesNat (keyBytes t) = symbolsNat (symbols bytes) / 2 ^ (5 * (symbols bytes).length % 8)) ∧
    (104 ≤ (symbols bytes).length → t.kstate = .failed ∧ t.len.toNat = 64 ∧ t.err = s.err ||| 0x02#6)

/-- 40_base32.md R108, R101: the key store a string leaves and the ERR bits its run raises depend only on its symbols:
not on the state before, on case, or on any skipped character. -/
def Obligations.LoadKeyIsDeterministic : Prop :=
  ∀ (bytes bytes' : List Byte) (s s' : State), symbols bytes = symbols bytes' →
    ∃ (t t' : State) (raised : BitVec 6),
      execAll (loadKeyCommands bytes) s = some t ∧ execAll (loadKeyCommands bytes') s' = some t' ∧
      t.secret = t'.secret ∧ t.len = t'.len ∧ t.acc = t'.acc ∧ t.bits = t'.bits ∧ t.kstate = t'.kstate ∧
      t.err = s.err ||| raised ∧ t'.err = s'.err ||| raised

/-! ### SHA-1 and HMAC -/

/-- 41_hmac_sha1.md R130: the message of every state is 8 bytes, the counter's most significant byte first, so that the
bytes read as one number are the counter; HMAC hashes it whatever the counter's value. -/
def Obligations.MessageIsTheCounter : Prop :=
  ∀ s : State,
    (message s).length = 8 ∧ (∀ i < 8, (message s)[i]? = some (s.ctr.extractLsb' (56 - 8 * i) 8)) ∧
    bytesNat (message s) = s.ctr.toNat ∧
    (s.kstate = .valid → ∃ t, exec .hmac s = .next t ∧ t.digest.toList = hmacSha1 (keyBlock s) (message s))

/-- 41_hmac_sha1.md R131, R134: the initial hash value, the constant of each round, and the round function bit by bit:
choose, parity, majority, parity. -/
def Obligations.RoundFunctionsAndConstants : Prop :=
  hInit = { h0 := 0x67452301, h1 := 0xEFCDAB89, h2 := 0x98BADCFE, h3 := 0x10325476, h4 := 0xC3D2E1F0 } ∧
  (∀ t, t ≤ 79 → roundConst t =
    if t < 20 then 0x5A827999 else if t < 40 then 0x6ED9EBA1 else if t < 60 then 0x8F1BBCDC else 0xCA62C1D6) ∧
  (∀ (t : Nat) (b c d : Word) (n : Nat), t ≤ 79 → n < 32 → (roundF t b c d).getLsbD n =
    if t < 20 then (if b.getLsbD n then c.getLsbD n else d.getLsbD n)
    else if 40 ≤ t ∧ t < 60 then
      decide (2 ≤ (b.getLsbD n).toNat + (c.getLsbD n).toNat + (d.getLsbD n).toNat)
    else decide (((b.getLsbD n).toNat + (c.getLsbD n).toNat + (d.getLsbD n).toNat) % 2 = 1))

/-- 41_hmac_sha1.md R132: the padding's form and length, and the split into 64-byte blocks in order. -/
def Obligations.PaddingFillsBlocks : Prop :=
  ∀ m : List Byte,
    (∃ z : Nat, z < 64 ∧ (z : Int) = (55 - (m.length : Int)) % 64 ∧
      pad m = m ++ 0x80#8 :: (List.replicate z 0x00#8 ++ be64 (BitVec.ofNat 64 (8 * m.length)))) ∧
    (pad m).length % 64 = 0 ∧ (blocks (pad m)).flatten = pad m ∧ ∀ b ∈ blocks (pad m), b.length = 64

/-- 41_hmac_sha1.md R133: the message schedule of a block is 80 words, the first 16 its bytes packed big-endian and each
later one the rotated exclusive or of four earlier ones. -/
def Obligations.ScheduleRecurrence : Prop :=
  ∀ b : List Byte, b.length = 64 →
    (schedule b).length = 80 ∧
    (∀ t < 16, (schedule b)[t]? =
      some (be32 (b.getD (4 * t) 0) (b.getD (4 * t + 1) 0) (b.getD (4 * t + 2) 0) (b.getD (4 * t + 3) 0))) ∧
    (∀ t, 16 ≤ t → t < 80 → (schedule b)[t]? =
      some (rotl32 ((schedule b).getD (t - 3) 0 ^^^ (schedule b).getD (t - 8) 0 ^^^ (schedule b).getD (t - 14) 0 ^^^
        (schedule b).getD (t - 16) 0) 1))

/-- 41_hmac_sha1.md R135: the compression of a block is 80 rounds of the rule's assignments from the state given, and
the sum of that state and the last, word by word modulo 2^32. -/
def Obligations.CompressionIsEightyRounds : Prop :=
  ∀ (h : Hash) (block : List Byte), block.length = 64 →
    ∃ a b c d e : Nat → Word,
      (a 0 = h.h0 ∧ b 0 = h.h1 ∧ c 0 = h.h2 ∧ d 0 = h.h3 ∧ e 0 = h.h4) ∧
      (∀ t < 80, ∃ w, (schedule block)[t]? = some w ∧
        a (t + 1) = (a t).rotateLeft 5 + roundF t (b t) (c t) (d t) + e t + roundConst t + w ∧
        e (t + 1) = d t ∧ d (t + 1) = c t ∧ c (t + 1) = (b t).rotateLeft 30 ∧ b (t + 1) = a t) ∧
      sha1Compress h block =
        { h0 := h.h0 + a 80, h1 := h.h1 + b 80, h2 := h.h2 + c 80, h3 := h.h3 + d 80, h4 := h.h4 + e 80 }

/-- 41_hmac_sha1.md R136: SHA1 folds the compression over the padded message's blocks from the initial value, and writes
the five words of the last state as 20 bytes, each word's most significant byte first. -/
def Obligations.Sha1FoldsTheBlocks : Prop :=
  ∀ m : List Byte, ∃ h : Nat → Hash,
    h 0 = hInit ∧
    (∀ i block, (blocks (pad m))[i]? = some block → h (i + 1) = sha1Compress (h i) block) ∧
    (sha1 m).length = 20 ∧
    ∀ j < 4,
      let g := h (blocks (pad m)).length
      (sha1 m)[j]? = some (g.h0.extractLsb' (24 - 8 * j) 8) ∧
      (sha1 m)[4 + j]? = some (g.h1.extractLsb' (24 - 8 * j) 8) ∧
      (sha1 m)[8 + j]? = some (g.h2.extractLsb' (24 - 8 * j) 8) ∧
      (sha1 m)[12 + j]? = some (g.h3.extractLsb' (24 - 8 * j) 8) ∧
      (sha1 m)[16 + j]? = some (g.h4.extractLsb' (24 - 8 * j) 8)

/-- 41_hmac_sha1.md R138: on a 64-byte key block, hmac_sha1 is the outer hash over the inner digest, with the pads 0x36
inside and 0x5C outside. -/
def Obligations.HmacNestsTwoHashes : Prop :=
  ∀ k0 m : List Byte, k0.length = 64 →
    ∃ inner : List Byte,
      inner = sha1 (List.zipWith (· ^^^ ·) k0 (List.replicate 64 0x36#8) ++ m) ∧ inner.length = 20 ∧
      hmacSha1 k0 m = sha1 (List.zipWith (· ^^^ ·) k0 (List.replicate 64 0x5C#8) ++ inner)

/-- 41_hmac_sha1.md R139: on a 64-byte key block and a counter, `hmac_sha1` is exactly four compressions, of the blocks
of the rule's table. -/
def Obligations.HmacIsFourCompressions : Prop :=
  ∀ (k0 : List Byte) (c : BitVec 64), k0.length = 64 →
    let inner := digestBytes (sha1Compress (sha1Compress hInit (k0.map (· ^^^ 0x36#8)))
      (be64 c ++ 0x80#8 :: (List.replicate 47 0x00#8 ++ be64 576#64)))
    hmacSha1 k0 (be64 c) = digestBytes (sha1Compress (sha1Compress hInit (k0.map (· ^^^ 0x5C#8)))
      (inner ++ 0x80#8 :: (List.replicate 35 0x00#8 ++ be64 672#64)))

/-- 41_hmac_sha1.md R137, R140: with a sealed key HMAC writes the 20 bytes of hmac_sha1 over the key store and the
counter into DIGEST and changes nothing else; without one it raises KEY_NOT_READY alone. Keys that differ only by
trailing 0x00 bytes give equal digests, whatever DIGEST held. The rule's example, with key "12345678901234567890". -/
def Obligations.HmacWritesTheDigest : Prop :=
  (∀ v : Word, decode v = .ok .hmac ↔ v = 0x00000004) ∧
  (∀ s : State, s.kstate = .valid → s.lenInRange → s.tailZero →
    ∃ t, exec .hmac s = .next t ∧ t = { s with digest := t.digest } ∧
      keyBytes s = (List.range s.len.toNat).map (fun i => s.secret.toList.getD i 0x00) ∧
      keyBytes s ++ List.replicate (64 - s.len.toNat) 0x00 = s.secret.toList ∧
      t.digest.toList = hmacSha1 s.secret.toList (be64 s.ctr)) ∧
  (∀ s : State, s.kstate ≠ .valid → exec .hmac s = .next { s with err := s.err ||| 0x04#6 }) ∧
  (∀ (s s' : State) (j : Nat), s.kstate = .valid → s'.kstate = .valid → s.lenInRange → s'.lenInRange →
    keyBytes s' = keyBytes s ++ List.replicate j 0x00 → s.ctr = s'.ctr →
    ∃ t t', exec .hmac s = .next t ∧ exec .hmac s' = .next t' ∧ t.digest = t'.digest) ∧
  (∀ s : State, s.kstate = .valid → s.ctr = 1 →
    keyBytes s = [0x31, 0x32, 0x33, 0x34, 0x35, 0x36, 0x37, 0x38, 0x39, 0x30,
      0x31, 0x32, 0x33, 0x34, 0x35, 0x36, 0x37, 0x38, 0x39, 0x30] →
    ∃ t, exec .hmac s = .next t ∧ regValue (.digest 0) t = 0x75A48A19 ∧ regValue (.digest 1) t = 0xD4CBE100 ∧
      regValue (.digest 2) t = 0x644E8AC1 ∧ regValue (.digest 3) t = 0x397EEA74 ∧ regValue (.digest 4) t = 0x7A2D33AB)

/-- 41_hmac_sha1.md R141: with a sealed key HMAC cannot fail, its digest is a function of the key bytes and the counter
alone, and issuing it twice gives equal digests. -/
def Obligations.HmacIsAPureFunction : Prop :=
  (∀ s s' : State, s.kstate = .valid → s'.kstate = .valid → s.lenInRange → s'.lenInRange →
    keyBytes s = keyBytes s' → s.ctr = s'.ctr →
    ∃ t t', exec .hmac s = .next t ∧ exec .hmac s' = .next t' ∧ t.digest = t'.digest) ∧
  (∀ s : State, s.kstate = .valid →
    ∃ t u, exec .hmac s = .next t ∧ exec .hmac t = .next u ∧ u.digest = t.digest)

/-! ### Truncation -/

/-- 42_truncation.md R170 to R174: for every digest TRUNC leaves the low nibble of byte 19, the 31-bit big-endian number
of the four bytes from there with the first masked, and its remainder modulo 10^6; it changes nothing else, reads no key
state, and written while busy it raises BUSY_VIOLATION. The rule's example and its all-0xFF case. -/
def Obligations.TruncTruncatesTheDigest : Prop :=
  (∀ v : Word, decode v = .ok .trunc ↔ v = 0x00000005) ∧
  (∀ s : State, ∃ t, exec .trunc s = .next t ∧ t = { s with toff := t.toff, tbin := t.tbin, code := t.code } ∧
    t.toff.toNat = s.digest[19].toNat % 16 ∧ t.toff.toNat + 3 ≤ 18 ∧
    (∀ d : Nat → Nat, (∀ i : Fin 20, d i.val = s.digest[i.val].toNat) →
      t.tbin.toNat = d t.toff.toNat % 128 * 2 ^ 24 + d (t.toff.toNat + 1) * 2 ^ 16 + d (t.toff.toNat + 2) * 2 ^ 8 +
        d (t.toff.toNat + 3)) ∧
    t.code.toNat = t.tbin.toNat % 1000000) ∧
  (∀ s : State, s.busy = true → issue 0x00000005 s = .next { s with err := s.err ||| 0x10#6 }) ∧
  (∀ s : State, s.digest = #v[0x1F, 0x86, 0x98, 0x69, 0x0E, 0x02, 0xCA, 0x16, 0x61, 0x85, 0x50, 0xEF, 0x7F, 0x19, 0xDA,
      0x8E, 0x94, 0x5B, 0x55, 0x5A] →
    ∃ t, exec .trunc s = .next t ∧ t.toff = 0xA ∧ t.tbin = 0x50EF7F19 ∧ t.code = 872921) ∧
  (∀ s : State, s.digest = Vector.replicate 20 0xFF →
    ∃ t, exec .trunc s = .next t ∧ t.toff = 15 ∧ t.tbin = 0x7FFFFFFF ∧ t.code = 483647)

/-- 42_truncation.md R175: TOTP is HMAC and then TRUNC as one command; without a sealed key it raises KEY_NOT_READY and
writes nothing else. The rule's example, with key "12345678901234567890". -/
def Obligations.TotpIsHmacThenTrunc : Prop :=
  (∀ v : Word, decode v = .ok .totp ↔ v = 0x00000006) ∧
  (∀ s : State, s.kstate = .valid → ∃ h t, exec .hmac s = .next h ∧ exec .trunc h = .next t ∧ exec .totp s = .next t ∧
    t = { s with digest := h.digest, toff := t.toff, tbin := t.tbin, code := t.code }) ∧
  (∀ s : State, s.kstate ≠ .valid → exec .totp s = .next { s with err := s.err ||| 0x04#6 }) ∧
  (∀ s : State, s.kstate = .valid → s.ctr = 1 →
    keyBytes s = [0x31, 0x32, 0x33, 0x34, 0x35, 0x36, 0x37, 0x38, 0x39, 0x30,
      0x31, 0x32, 0x33, 0x34, 0x35, 0x36, 0x37, 0x38, 0x39, 0x30] →
    ∃ t, exec .totp s = .next t ∧ t.toff = 11 ∧ t.tbin = 0x41397EEA ∧ t.code = 287082)

/-- 42_truncation.md R176: the code is in [0, 999999] after every TRUNC, after every TOTP with a sealed key, and after a
TOTP that computes none where 10_state.md R32 (I6) held before; TOTP on equal key bytes and counters gives equal codes. -/
def Obligations.CodesAreInRangeAndDeterministic : Prop :=
  (∀ s t : State, exec .trunc s = .next t → t.code.toNat ≤ 999999) ∧
  (∀ s t : State, s.kstate = .valid → exec .totp s = .next t → t.code.toNat ≤ 999999) ∧
  (∀ s t : State, s.codeOfBin → exec .totp s = .next t → t.code.toNat ≤ 999999) ∧
  (∀ s s' : State, s.kstate = .valid → s'.kstate = .valid → s.lenInRange → s'.lenInRange →
    keyBytes s = keyBytes s' → s.ctr = s'.ctr →
    ∃ t t', exec .totp s = .next t ∧ exec .totp s' = .next t' ∧ t.code = t'.code)

/-! ### Host programs -/

/-- 30_encoding.md R88, R89, R90: the bus moves of each statement and pseudo-instruction, for every operand, and of a
program: its statements' in order. POLL is one move, made again while BUSY reads 1 (log 13). -/
def Obligations.HostStatementsExpand : Prop :=
  (∀ (r : Reg) (v : Word), (HostStmt.wr r v).ops = [.write r.offset 4 v]) ∧
  (∀ r : Reg, (HostStmt.rd r).ops = [.read r.offset 4]) ∧
  (∀ (r : Reg) (v : Word), (HostStmt.rdExpect r v).ops = [.check r.offset v]) ∧
  (∀ i : Instr, (HostStmt.cmd i).ops = [.write 0x04 4 (encode i)]) ∧
  HostStmt.poll.ops = [.poll] ∧
  (∀ bytes : List Byte, (HostStmt.b32 bytes).ops =
    (bytes.map fun b : Byte => [HostOp.write 0x04 4 ((b.setWidth 32 <<< 8) ||| 0x02#32), .poll]).flatten) ∧
  (∀ (p q : List HostStmt) (s : State), programOps (p ++ q) = (p.map HostStmt.ops).flatten ++ programOps q ∧
    loadProgram p s = { s with env := { s.env with hostOps := s.env.hostOps ++ programOps p } }) ∧
  (∀ i : Instr, (HostStmt.cmdw i).ops = [.write 0x04 4 (encode i), .poll]) ∧
  (∀ bytes : List Byte, (HostStmt.loadKey bytes).ops =
    [HostOp.write 0x04 4 0x00000001, .poll] ++
      (bytes.map fun b : Byte => [HostOp.write 0x04 4 ((b.setWidth 32 <<< 8) ||| 0x02#32), .poll]).flatten ++
      [HostOp.write 0x04 4 0x00000003, .poll]) ∧
  (∀ bytes : List Byte, (HostStmt.loadKey bytes).ops = (loadKeyCommands bytes).flatMap cmdwOps) ∧
  (∀ c : BitVec 64, ∃ lo hi : Word, (HostStmt.setCtr c).ops = [.write 0x10 4 lo, .write 0x14 4 hi] ∧
    hi.toNat * 2 ^ 32 + lo.toNat = c.toNat) ∧
  (∀ (d : Vector Byte 20) (s : State), s.busy = false → ∀ rest, s.env.hostOps = (HostStmt.setDigest d).ops ++ rest →
    ∃ t, core.run 5 s = .next t ∧ { s with digest := d }.SameBlock t ∧ t.env.hostOps = rest)

/-- 70_reset_and_hazards.md R251, 30_encoding.md R88, R89, 20_memory.md R55: on the host's turn a read of a register adds
its read value to the observation, a read with an expected value passes exactly when that value is read, POLL adds the
STATUS value and is made again exactly while BUSY is 1, and an illegal or unreached read adds none; writes, idle time and
resets add none, and neither does `complete`. That the responses are kept in State (log 4) and that an unreached read gives
no value (log 5) are the model's choices. -/
def Obligations.ObservationIsTheValuesRead : Prop :=
  (∀ (s : State) (r : Reg) (rest : List HostOp), engineMoves s = false → s.env.hostOps = .read r.offset 4 :: rest →
    ∃ t, step s = .next t ∧ s.SameBlock t ∧ t.env.hostOps = rest ∧
      t.readValues = s.readValues ++ [readValue r s] ∧ t.checksPassed = s.checksPassed) ∧
  (∀ (s : State) (r : Reg) (v : Word) (rest : List HostOp), engineMoves s = false →
    s.env.hostOps = .check r.offset v :: rest →
    ∃ t, step s = .next t ∧ s.SameBlock t ∧ t.env.hostOps = rest ∧
      t.readValues = s.readValues ++ [readValue r s] ∧
      (t.checksPassed = true ↔ s.checksPassed = true ∧ readValue r s = v)) ∧
  (∀ (s : State) (rest : List HostOp), engineMoves s = false → s.env.hostOps = .poll :: rest →
    ∃ t, step s = .next t ∧ s.SameBlock t ∧ t.env.hostOps = (if s.busy = true then .poll :: rest else rest) ∧
      t.readValues = s.readValues ++ [readValue .status s] ∧ t.checksPassed = s.checksPassed) ∧
  (∀ (s : State) (off n : Nat) (rest : List HostOp), engineMoves s = false → s.env.hostOps = .read off n :: rest →
    ¬ (off < 0x80 ∧ n = 4 ∧ off % 4 = 0) →
    ∃ t, step s = .next t ∧ s.SameBlock t ∧ t.readValues = s.readValues ∧ t.checksPassed = s.checksPassed) ∧
  (∀ (s : State) (addr n : Nat) (rest : List HostOp), engineMoves s = false → s.env.hostOps = .readAt addr n :: rest →
    ∃ t, step s = .next t ∧ s.SameBlock t ∧ t.checksPassed = s.checksPassed ∧
      (∀ r : Reg, addr = Config.base + r.offset → n = 4 → t.readValues = s.readValues ++ [readValue r s]) ∧
      (¬ (∃ r : Reg, addr = Config.base + r.offset ∧ n = 4) → t.readValues = s.readValues)) ∧
  (∀ (s t : State) (op : HostOp) (rest : List HostOp), engineMoves s = false → s.env.hostOps = op :: rest →
    (op = .idle ∨ op = .reset ∨ (∃ off n v, op = .write off n v) ∨ ∃ addr n v, op = .writeAt addr n v) → step s = .next t →
    t.readValues = s.readValues ∧ t.checksPassed = s.checksPassed) ∧
  (∀ s t : State, engineMoves s = true → step s = .next t →
    t.readValues = s.readValues ∧ t.checksPassed = s.checksPassed)

/-- 20_memory.md R51: BASE is a multiple of 128 and otherwise free; an access at BASE + off is the access at offset off,
and one outside [BASE, BASE + 0x7F], below it or above it, changes no element of the block. -/
def Obligations.AddressesAreRelativeToBase : Prop :=
  Config.base % 128 = 0 ∧
  (∀ (off n : Nat) (v : Word) (s : State),
    performOp (.readAt (Config.base + off) n) s = performOp (.read off n) s ∧
    performOp (.writeAt (Config.base + off) n v) s = performOp (.write off n v) s) ∧
  (∀ (addr n : Nat) (v : Word) (s : State), addr < Config.base ∨ Config.base + 0x7F < addr →
    (∃ t, performOp (.readAt addr n) s = .next t ∧ s.SameBlock t) ∧
    ∃ t, performOp (.writeAt addr n v) s = .next t ∧ s.SameBlock t)
end

