-- ==== Sys2Proof/Laws/Decode.lean ====
section
/-! SUPPORT. Lemmas about the decoder: a word is its three fields, and what a word's fields are when it decodes. -/

namespace Sys2Proof

/-- A command word is RSVD, DATA and OP side by side (30_encoding.md R81). -/
theorem word_eq_fields (v : Word) : v = rsvdField v ++ dataField v ++ opField v := by
  apply BitVec.eq_of_getLsbD_eq
  intro i hi
  simp only [rsvdField, dataField, opField, BitVec.getLsbD_append, BitVec.getLsbD_extractLsb']
  by_cases h8 : i < 8
  · simp [h8]
  · by_cases h16 : i - 8 < 8
    · simp [h8, h16]; congr 1; omega
    · simp [h8, h16, show i - 8 - 8 < 16 by omega]; congr 1; omega

/-- Only 0x0000000F decodes to SRESET. -/
theorem decode_sreset {v : Word} (h : decode v = .ok .sreset) : v = 0x0000000F := by
  have hv := word_eq_fields v
  unfold decode at h
  split at h
  · cases h
  rename_i hr
  split at h
  · cases h
  split at h
  · cases h
  rename_i hd
  simp only [ne_eq, not_not] at hr hd
  rw [hr, hd] at hv
  repeat' (split at h)
  all_goals first
    | (rw [hv, ‹opField v = 0x0F›]; rfl)
    | cases h

/-- A word that decodes to no command is not SRESET's. -/
theorem decode_error_ne_sreset {v : Word} {e : IllegalWord} (h : decode v = .error e) : v ≠ 0x0000000F := by
  rintro rfl
  exact absurd h (by simp [show decode 0x0000000F#32 = .ok .sreset from rfl])

end Sys2Proof
end

