-- ==== Sys2Proof/Laws/Hash.lean ====
section
/-! SUPPORT. Lengths of the byte strings of SHA-1 and HMAC, and the digest register as a byte string. -/

namespace Sys2Proof.Machine

@[simp] theorem be64_length (c : BitVec 64) : (be64 c).length = 8 := by simp [be64]

@[simp] theorem wordBytes_length (w : Word) : (wordBytes w).length = 4 := rfl

@[simp] theorem digestBytes_length (h : Hash) : (digestBytes h).length = 20 := rfl

@[simp] theorem sha1_length (m : List Byte) : (sha1 m).length = 20 := rfl

@[simp] theorem hmacSha1_length (k0 m : List Byte) : (hmacSha1 k0 m).length = 20 := rfl

@[simp] theorem xorPad_length (k0 : List Byte) (p : Byte) : (xorPad k0 p).length = k0.length := by simp [xorPad]

/-- The digest register holds the 20 bytes it is given (41_hmac_sha1.md R140). -/
theorem digestOf_toList {d : List Byte} (h : d.length = 20) : (digestOf d).toList = d := by
  apply List.ext_getElem
  · simp [h]
  · intro i hi hd
    simp [digestOf, List.getElem?_eq_getElem hd]

/-- The decoded key has LEN bytes. -/
theorem keyBytes_length {s : State} (h : s.len.toNat ≤ 64) : (keyBytes s).length = s.len.toNat := by
  simp [keyBytes, h]

/-- The key block fills one SHA-1 block (41_hmac_sha1.md R137). -/
theorem keyBlock_length {s : State} (h : s.len.toNat ≤ 64) : (keyBlock s).length = 64 := by
  simp only [keyBlock, List.length_append, List.length_replicate, keyBytes_length h, Config.blockLen]
  omega

end Sys2Proof.Machine
end

