-- ==== Sys2Proof/Laws/State.lean ====
section
/-! SUPPORT. Beside State: for each shared update of the state, each field after it. -/

namespace Sys2Proof.Machine

/-! `raiseErr` -/

@[simp] theorem raiseErr_secret (e : ErrBit) (s : State) : (raiseErr e s).secret = s.secret := rfl
@[simp] theorem raiseErr_len (e : ErrBit) (s : State) : (raiseErr e s).len = s.len := rfl
@[simp] theorem raiseErr_acc (e : ErrBit) (s : State) : (raiseErr e s).acc = s.acc := rfl
@[simp] theorem raiseErr_bits (e : ErrBit) (s : State) : (raiseErr e s).bits = s.bits := rfl
@[simp] theorem raiseErr_kstate (e : ErrBit) (s : State) : (raiseErr e s).kstate = s.kstate := rfl
@[simp] theorem raiseErr_ctr (e : ErrBit) (s : State) : (raiseErr e s).ctr = s.ctr := rfl
@[simp] theorem raiseErr_digest (e : ErrBit) (s : State) : (raiseErr e s).digest = s.digest := rfl
@[simp] theorem raiseErr_toff (e : ErrBit) (s : State) : (raiseErr e s).toff = s.toff := rfl
@[simp] theorem raiseErr_tbin (e : ErrBit) (s : State) : (raiseErr e s).tbin = s.tbin := rfl
@[simp] theorem raiseErr_code (e : ErrBit) (s : State) : (raiseErr e s).code = s.code := rfl
@[simp] theorem raiseErr_err (e : ErrBit) (s : State) : (raiseErr e s).err = s.err ||| e.mask := rfl
@[simp] theorem raiseErr_busy (e : ErrBit) (s : State) : (raiseErr e s).busy = s.busy := rfl
@[simp] theorem raiseErr_pend (e : ErrBit) (s : State) : (raiseErr e s).pend = s.pend := rfl
@[simp] theorem raiseErr_env (e : ErrBit) (s : State) : (raiseErr e s).env = s.env := rfl

/-! `setAcc` -/

@[simp] theorem setAcc_secret (a : BitVec 7) (k : BitVec 3) (s : State) : (setAcc a k s).secret = s.secret := rfl
@[simp] theorem setAcc_len (a : BitVec 7) (k : BitVec 3) (s : State) : (setAcc a k s).len = s.len := rfl
@[simp] theorem setAcc_acc (a : BitVec 7) (k : BitVec 3) (s : State) : (setAcc a k s).acc = a := rfl
@[simp] theorem setAcc_bits (a : BitVec 7) (k : BitVec 3) (s : State) : (setAcc a k s).bits = k := rfl
@[simp] theorem setAcc_kstate (a : BitVec 7) (k : BitVec 3) (s : State) : (setAcc a k s).kstate = s.kstate := rfl
@[simp] theorem setAcc_ctr (a : BitVec 7) (k : BitVec 3) (s : State) : (setAcc a k s).ctr = s.ctr := rfl
@[simp] theorem setAcc_digest (a : BitVec 7) (k : BitVec 3) (s : State) : (setAcc a k s).digest = s.digest := rfl
@[simp] theorem setAcc_toff (a : BitVec 7) (k : BitVec 3) (s : State) : (setAcc a k s).toff = s.toff := rfl
@[simp] theorem setAcc_tbin (a : BitVec 7) (k : BitVec 3) (s : State) : (setAcc a k s).tbin = s.tbin := rfl
@[simp] theorem setAcc_code (a : BitVec 7) (k : BitVec 3) (s : State) : (setAcc a k s).code = s.code := rfl
@[simp] theorem setAcc_err (a : BitVec 7) (k : BitVec 3) (s : State) : (setAcc a k s).err = s.err := rfl
@[simp] theorem setAcc_busy (a : BitVec 7) (k : BitVec 3) (s : State) : (setAcc a k s).busy = s.busy := rfl
@[simp] theorem setAcc_pend (a : BitVec 7) (k : BitVec 3) (s : State) : (setAcc a k s).pend = s.pend := rfl
@[simp] theorem setAcc_env (a : BitVec 7) (k : BitVec 3) (s : State) : (setAcc a k s).env = s.env := rfl

/-! `setKState` -/

@[simp] theorem setKState_secret (k : KState) (s : State) : (setKState k s).secret = s.secret := rfl
@[simp] theorem setKState_len (k : KState) (s : State) : (setKState k s).len = s.len := rfl
@[simp] theorem setKState_acc (k : KState) (s : State) : (setKState k s).acc = s.acc := rfl
@[simp] theorem setKState_bits (k : KState) (s : State) : (setKState k s).bits = s.bits := rfl
@[simp] theorem setKState_kstate (k : KState) (s : State) : (setKState k s).kstate = k := rfl
@[simp] theorem setKState_ctr (k : KState) (s : State) : (setKState k s).ctr = s.ctr := rfl
@[simp] theorem setKState_digest (k : KState) (s : State) : (setKState k s).digest = s.digest := rfl
@[simp] theorem setKState_toff (k : KState) (s : State) : (setKState k s).toff = s.toff := rfl
@[simp] theorem setKState_tbin (k : KState) (s : State) : (setKState k s).tbin = s.tbin := rfl
@[simp] theorem setKState_code (k : KState) (s : State) : (setKState k s).code = s.code := rfl
@[simp] theorem setKState_err (k : KState) (s : State) : (setKState k s).err = s.err := rfl
@[simp] theorem setKState_busy (k : KState) (s : State) : (setKState k s).busy = s.busy := rfl
@[simp] theorem setKState_pend (k : KState) (s : State) : (setKState k s).pend = s.pend := rfl
@[simp] theorem setKState_env (k : KState) (s : State) : (setKState k s).env = s.env := rfl

/-! `accept` -/

@[simp] theorem accept_secret (c : Instr) (s : State) : (accept c s).secret = s.secret := rfl
@[simp] theorem accept_len (c : Instr) (s : State) : (accept c s).len = s.len := rfl
@[simp] theorem accept_acc (c : Instr) (s : State) : (accept c s).acc = s.acc := rfl
@[simp] theorem accept_bits (c : Instr) (s : State) : (accept c s).bits = s.bits := rfl
@[simp] theorem accept_kstate (c : Instr) (s : State) : (accept c s).kstate = s.kstate := rfl
@[simp] theorem accept_ctr (c : Instr) (s : State) : (accept c s).ctr = s.ctr := rfl
@[simp] theorem accept_digest (c : Instr) (s : State) : (accept c s).digest = s.digest := rfl
@[simp] theorem accept_toff (c : Instr) (s : State) : (accept c s).toff = s.toff := rfl
@[simp] theorem accept_tbin (c : Instr) (s : State) : (accept c s).tbin = s.tbin := rfl
@[simp] theorem accept_code (c : Instr) (s : State) : (accept c s).code = s.code := rfl
@[simp] theorem accept_err (c : Instr) (s : State) : (accept c s).err = s.err := rfl
@[simp] theorem accept_busy (c : Instr) (s : State) : (accept c s).busy = true := rfl
@[simp] theorem accept_pend (c : Instr) (s : State) : (accept c s).pend = some c := rfl
@[simp] theorem accept_env (c : Instr) (s : State) :
    (accept c s).env = { s.env with wait := Config.latency s.env.accepted c s.block, accepted := s.env.accepted + 1 } := rfl

/-! `retire` -/

@[simp] theorem retire_secret (s : State) : (retire s).secret = s.secret := rfl
@[simp] theorem retire_len (s : State) : (retire s).len = s.len := rfl
@[simp] theorem retire_acc (s : State) : (retire s).acc = s.acc := rfl
@[simp] theorem retire_bits (s : State) : (retire s).bits = s.bits := rfl
@[simp] theorem retire_kstate (s : State) : (retire s).kstate = s.kstate := rfl
@[simp] theorem retire_ctr (s : State) : (retire s).ctr = s.ctr := rfl
@[simp] theorem retire_digest (s : State) : (retire s).digest = s.digest := rfl
@[simp] theorem retire_toff (s : State) : (retire s).toff = s.toff := rfl
@[simp] theorem retire_tbin (s : State) : (retire s).tbin = s.tbin := rfl
@[simp] theorem retire_code (s : State) : (retire s).code = s.code := rfl
@[simp] theorem retire_err (s : State) : (retire s).err = s.err := rfl
@[simp] theorem retire_busy (s : State) : (retire s).busy = false := rfl
@[simp] theorem retire_pend (s : State) : (retire s).pend = none := rfl
@[simp] theorem retire_env (s : State) : (retire s).env = s.env := rfl

/-! `blockReset` -/

@[simp] theorem blockReset_secret (s : State) : (blockReset s).secret = State.reset.secret := rfl
@[simp] theorem blockReset_len (s : State) : (blockReset s).len = State.reset.len := rfl
@[simp] theorem blockReset_acc (s : State) : (blockReset s).acc = State.reset.acc := rfl
@[simp] theorem blockReset_bits (s : State) : (blockReset s).bits = State.reset.bits := rfl
@[simp] theorem blockReset_kstate (s : State) : (blockReset s).kstate = State.reset.kstate := rfl
@[simp] theorem blockReset_ctr (s : State) : (blockReset s).ctr = State.reset.ctr := rfl
@[simp] theorem blockReset_digest (s : State) : (blockReset s).digest = State.reset.digest := rfl
@[simp] theorem blockReset_toff (s : State) : (blockReset s).toff = State.reset.toff := rfl
@[simp] theorem blockReset_tbin (s : State) : (blockReset s).tbin = State.reset.tbin := rfl
@[simp] theorem blockReset_code (s : State) : (blockReset s).code = State.reset.code := rfl
@[simp] theorem blockReset_err (s : State) : (blockReset s).err = State.reset.err := rfl
@[simp] theorem blockReset_busy (s : State) : (blockReset s).busy = State.reset.busy := rfl
@[simp] theorem blockReset_pend (s : State) : (blockReset s).pend = State.reset.pend := rfl
@[simp] theorem blockReset_env (s : State) : (blockReset s).env = { s.env with wait := 0 } := rfl

/-! `respond` -/

@[simp] theorem respond_secret (r : Response) (s : State) : (respond r s).secret = s.secret := rfl
@[simp] theorem respond_len (r : Response) (s : State) : (respond r s).len = s.len := rfl
@[simp] theorem respond_acc (r : Response) (s : State) : (respond r s).acc = s.acc := rfl
@[simp] theorem respond_bits (r : Response) (s : State) : (respond r s).bits = s.bits := rfl
@[simp] theorem respond_kstate (r : Response) (s : State) : (respond r s).kstate = s.kstate := rfl
@[simp] theorem respond_ctr (r : Response) (s : State) : (respond r s).ctr = s.ctr := rfl
@[simp] theorem respond_digest (r : Response) (s : State) : (respond r s).digest = s.digest := rfl
@[simp] theorem respond_toff (r : Response) (s : State) : (respond r s).toff = s.toff := rfl
@[simp] theorem respond_tbin (r : Response) (s : State) : (respond r s).tbin = s.tbin := rfl
@[simp] theorem respond_code (r : Response) (s : State) : (respond r s).code = s.code := rfl
@[simp] theorem respond_err (r : Response) (s : State) : (respond r s).err = s.err := rfl
@[simp] theorem respond_busy (r : Response) (s : State) : (respond r s).busy = s.busy := rfl
@[simp] theorem respond_pend (r : Response) (s : State) : (respond r s).pend = s.pend := rfl
@[simp] theorem respond_env (r : Response) (s : State) : (respond r s).env = { s.env with obs := r :: s.env.obs } := rfl

/-! `clearErr` -/

@[simp] theorem clearErr_secret (v : Word) (s : State) : (clearErr v s).secret = s.secret := rfl
@[simp] theorem clearErr_len (v : Word) (s : State) : (clearErr v s).len = s.len := rfl
@[simp] theorem clearErr_acc (v : Word) (s : State) : (clearErr v s).acc = s.acc := rfl
@[simp] theorem clearErr_bits (v : Word) (s : State) : (clearErr v s).bits = s.bits := rfl
@[simp] theorem clearErr_kstate (v : Word) (s : State) : (clearErr v s).kstate = s.kstate := rfl
@[simp] theorem clearErr_ctr (v : Word) (s : State) : (clearErr v s).ctr = s.ctr := rfl
@[simp] theorem clearErr_digest (v : Word) (s : State) : (clearErr v s).digest = s.digest := rfl
@[simp] theorem clearErr_toff (v : Word) (s : State) : (clearErr v s).toff = s.toff := rfl
@[simp] theorem clearErr_tbin (v : Word) (s : State) : (clearErr v s).tbin = s.tbin := rfl
@[simp] theorem clearErr_code (v : Word) (s : State) : (clearErr v s).code = s.code := rfl
@[simp] theorem clearErr_err (v : Word) (s : State) : (clearErr v s).err = s.err &&& ~~~(v.extractLsb' 0 6) := rfl
@[simp] theorem clearErr_busy (v : Word) (s : State) : (clearErr v s).busy = s.busy := rfl
@[simp] theorem clearErr_pend (v : Word) (s : State) : (clearErr v s).pend = s.pend := rfl
@[simp] theorem clearErr_env (v : Word) (s : State) : (clearErr v s).env = s.env := rfl

/-! `setCtrLo` -/

@[simp] theorem setCtrLo_secret (v : Word) (s : State) : (setCtrLo v s).secret = s.secret := rfl
@[simp] theorem setCtrLo_len (v : Word) (s : State) : (setCtrLo v s).len = s.len := rfl
@[simp] theorem setCtrLo_acc (v : Word) (s : State) : (setCtrLo v s).acc = s.acc := rfl
@[simp] theorem setCtrLo_bits (v : Word) (s : State) : (setCtrLo v s).bits = s.bits := rfl
@[simp] theorem setCtrLo_kstate (v : Word) (s : State) : (setCtrLo v s).kstate = s.kstate := rfl
@[simp] theorem setCtrLo_ctr (v : Word) (s : State) : (setCtrLo v s).ctr = s.ctr.extractLsb' 32 32 ++ v := rfl
@[simp] theorem setCtrLo_digest (v : Word) (s : State) : (setCtrLo v s).digest = s.digest := rfl
@[simp] theorem setCtrLo_toff (v : Word) (s : State) : (setCtrLo v s).toff = s.toff := rfl
@[simp] theorem setCtrLo_tbin (v : Word) (s : State) : (setCtrLo v s).tbin = s.tbin := rfl
@[simp] theorem setCtrLo_code (v : Word) (s : State) : (setCtrLo v s).code = s.code := rfl
@[simp] theorem setCtrLo_err (v : Word) (s : State) : (setCtrLo v s).err = s.err := rfl
@[simp] theorem setCtrLo_busy (v : Word) (s : State) : (setCtrLo v s).busy = s.busy := rfl
@[simp] theorem setCtrLo_pend (v : Word) (s : State) : (setCtrLo v s).pend = s.pend := rfl
@[simp] theorem setCtrLo_env (v : Word) (s : State) : (setCtrLo v s).env = s.env := rfl

/-! `setCtrHi` -/

@[simp] theorem setCtrHi_secret (v : Word) (s : State) : (setCtrHi v s).secret = s.secret := rfl
@[simp] theorem setCtrHi_len (v : Word) (s : State) : (setCtrHi v s).len = s.len := rfl
@[simp] theorem setCtrHi_acc (v : Word) (s : State) : (setCtrHi v s).acc = s.acc := rfl
@[simp] theorem setCtrHi_bits (v : Word) (s : State) : (setCtrHi v s).bits = s.bits := rfl
@[simp] theorem setCtrHi_kstate (v : Word) (s : State) : (setCtrHi v s).kstate = s.kstate := rfl
@[simp] theorem setCtrHi_ctr (v : Word) (s : State) : (setCtrHi v s).ctr = v ++ s.ctr.extractLsb' 0 32 := rfl
@[simp] theorem setCtrHi_digest (v : Word) (s : State) : (setCtrHi v s).digest = s.digest := rfl
@[simp] theorem setCtrHi_toff (v : Word) (s : State) : (setCtrHi v s).toff = s.toff := rfl
@[simp] theorem setCtrHi_tbin (v : Word) (s : State) : (setCtrHi v s).tbin = s.tbin := rfl
@[simp] theorem setCtrHi_code (v : Word) (s : State) : (setCtrHi v s).code = s.code := rfl
@[simp] theorem setCtrHi_err (v : Word) (s : State) : (setCtrHi v s).err = s.err := rfl
@[simp] theorem setCtrHi_busy (v : Word) (s : State) : (setCtrHi v s).busy = s.busy := rfl
@[simp] theorem setCtrHi_pend (v : Word) (s : State) : (setCtrHi v s).pend = s.pend := rfl
@[simp] theorem setCtrHi_env (v : Word) (s : State) : (setCtrHi v s).env = s.env := rfl

/-! `setDigestWord` -/

@[simp] theorem setDigestWord_secret (j : Fin 5) (v : Word) (s : State) : (setDigestWord j v s).secret = s.secret := rfl
@[simp] theorem setDigestWord_len (j : Fin 5) (v : Word) (s : State) : (setDigestWord j v s).len = s.len := rfl
@[simp] theorem setDigestWord_acc (j : Fin 5) (v : Word) (s : State) : (setDigestWord j v s).acc = s.acc := rfl
@[simp] theorem setDigestWord_bits (j : Fin 5) (v : Word) (s : State) : (setDigestWord j v s).bits = s.bits := rfl
@[simp] theorem setDigestWord_kstate (j : Fin 5) (v : Word) (s : State) : (setDigestWord j v s).kstate = s.kstate := rfl
@[simp] theorem setDigestWord_ctr (j : Fin 5) (v : Word) (s : State) : (setDigestWord j v s).ctr = s.ctr := rfl
@[simp] theorem setDigestWord_toff (j : Fin 5) (v : Word) (s : State) : (setDigestWord j v s).toff = s.toff := rfl
@[simp] theorem setDigestWord_tbin (j : Fin 5) (v : Word) (s : State) : (setDigestWord j v s).tbin = s.tbin := rfl
@[simp] theorem setDigestWord_code (j : Fin 5) (v : Word) (s : State) : (setDigestWord j v s).code = s.code := rfl
@[simp] theorem setDigestWord_err (j : Fin 5) (v : Word) (s : State) : (setDigestWord j v s).err = s.err := rfl
@[simp] theorem setDigestWord_busy (j : Fin 5) (v : Word) (s : State) : (setDigestWord j v s).busy = s.busy := rfl
@[simp] theorem setDigestWord_pend (j : Fin 5) (v : Word) (s : State) : (setDigestWord j v s).pend = s.pend := rfl
@[simp] theorem setDigestWord_env (j : Fin 5) (v : Word) (s : State) : (setDigestWord j v s).env = s.env := rfl

/-! `clearKey` -/

@[simp] theorem clearKey_secret (s : State) : (clearKey s).secret = Vector.replicate 64 0 := rfl
@[simp] theorem clearKey_len (s : State) : (clearKey s).len = 0 := rfl
@[simp] theorem clearKey_acc (s : State) : (clearKey s).acc = s.acc := rfl
@[simp] theorem clearKey_bits (s : State) : (clearKey s).bits = s.bits := rfl
@[simp] theorem clearKey_kstate (s : State) : (clearKey s).kstate = s.kstate := rfl
@[simp] theorem clearKey_ctr (s : State) : (clearKey s).ctr = s.ctr := rfl
@[simp] theorem clearKey_digest (s : State) : (clearKey s).digest = s.digest := rfl
@[simp] theorem clearKey_toff (s : State) : (clearKey s).toff = s.toff := rfl
@[simp] theorem clearKey_tbin (s : State) : (clearKey s).tbin = s.tbin := rfl
@[simp] theorem clearKey_code (s : State) : (clearKey s).code = s.code := rfl
@[simp] theorem clearKey_err (s : State) : (clearKey s).err = s.err := rfl
@[simp] theorem clearKey_busy (s : State) : (clearKey s).busy = s.busy := rfl
@[simp] theorem clearKey_pend (s : State) : (clearKey s).pend = s.pend := rfl
@[simp] theorem clearKey_env (s : State) : (clearKey s).env = s.env := rfl

/-! `storeByte` -/

@[simp] theorem storeByte_secret (out : Byte) (s : State) :
    (storeByte out s).secret = s.secret.setIfInBounds s.len.toNat out := rfl
@[simp] theorem storeByte_len (out : Byte) (s : State) : (storeByte out s).len = s.len + 1 := rfl
@[simp] theorem storeByte_acc (out : Byte) (s : State) : (storeByte out s).acc = s.acc := rfl
@[simp] theorem storeByte_bits (out : Byte) (s : State) : (storeByte out s).bits = s.bits := rfl
@[simp] theorem storeByte_kstate (out : Byte) (s : State) : (storeByte out s).kstate = s.kstate := rfl
@[simp] theorem storeByte_ctr (out : Byte) (s : State) : (storeByte out s).ctr = s.ctr := rfl
@[simp] theorem storeByte_digest (out : Byte) (s : State) : (storeByte out s).digest = s.digest := rfl
@[simp] theorem storeByte_toff (out : Byte) (s : State) : (storeByte out s).toff = s.toff := rfl
@[simp] theorem storeByte_tbin (out : Byte) (s : State) : (storeByte out s).tbin = s.tbin := rfl
@[simp] theorem storeByte_code (out : Byte) (s : State) : (storeByte out s).code = s.code := rfl
@[simp] theorem storeByte_err (out : Byte) (s : State) : (storeByte out s).err = s.err := rfl
@[simp] theorem storeByte_busy (out : Byte) (s : State) : (storeByte out s).busy = s.busy := rfl
@[simp] theorem storeByte_pend (out : Byte) (s : State) : (storeByte out s).pend = s.pend := rfl
@[simp] theorem storeByte_env (out : Byte) (s : State) : (storeByte out s).env = s.env := rfl

/-! `overflowKey` -/

@[simp] theorem overflowKey_secret (s : State) : (overflowKey s).secret = s.secret := rfl
@[simp] theorem overflowKey_len (s : State) : (overflowKey s).len = s.len := rfl
@[simp] theorem overflowKey_acc (s : State) : (overflowKey s).acc = 0 := rfl
@[simp] theorem overflowKey_bits (s : State) : (overflowKey s).bits = 0 := rfl
@[simp] theorem overflowKey_kstate (s : State) : (overflowKey s).kstate = .failed := rfl
@[simp] theorem overflowKey_ctr (s : State) : (overflowKey s).ctr = s.ctr := rfl
@[simp] theorem overflowKey_digest (s : State) : (overflowKey s).digest = s.digest := rfl
@[simp] theorem overflowKey_toff (s : State) : (overflowKey s).toff = s.toff := rfl
@[simp] theorem overflowKey_tbin (s : State) : (overflowKey s).tbin = s.tbin := rfl
@[simp] theorem overflowKey_code (s : State) : (overflowKey s).code = s.code := rfl
@[simp] theorem overflowKey_err (s : State) : (overflowKey s).err = s.err ||| ErrBit.bufferOverflow.mask := rfl
@[simp] theorem overflowKey_busy (s : State) : (overflowKey s).busy = s.busy := rfl
@[simp] theorem overflowKey_pend (s : State) : (overflowKey s).pend = s.pend := rfl
@[simp] theorem overflowKey_env (s : State) : (overflowKey s).env = s.env := rfl

/-! `truncBody` -/

@[simp] theorem truncBody_secret (s : State) : (truncBody s).secret = s.secret := rfl
@[simp] theorem truncBody_len (s : State) : (truncBody s).len = s.len := rfl
@[simp] theorem truncBody_acc (s : State) : (truncBody s).acc = s.acc := rfl
@[simp] theorem truncBody_bits (s : State) : (truncBody s).bits = s.bits := rfl
@[simp] theorem truncBody_kstate (s : State) : (truncBody s).kstate = s.kstate := rfl
@[simp] theorem truncBody_ctr (s : State) : (truncBody s).ctr = s.ctr := rfl
@[simp] theorem truncBody_digest (s : State) : (truncBody s).digest = s.digest := rfl
@[simp] theorem truncBody_toff (s : State) : (truncBody s).toff = truncOffset s.digest := rfl
@[simp] theorem truncBody_tbin (s : State) : (truncBody s).tbin = truncBin s.digest := rfl
@[simp] theorem truncBody_code (s : State) : (truncBody s).code = truncCode s.digest := rfl
@[simp] theorem truncBody_err (s : State) : (truncBody s).err = s.err := rfl
@[simp] theorem truncBody_busy (s : State) : (truncBody s).busy = s.busy := rfl
@[simp] theorem truncBody_pend (s : State) : (truncBody s).pend = s.pend := rfl
@[simp] theorem truncBody_env (s : State) : (truncBody s).env = s.env := rfl

/-! `hmacBody` -/

@[simp] theorem hmacBody_secret (s : State) : (hmacBody s).secret = s.secret := rfl
@[simp] theorem hmacBody_len (s : State) : (hmacBody s).len = s.len := rfl
@[simp] theorem hmacBody_acc (s : State) : (hmacBody s).acc = s.acc := rfl
@[simp] theorem hmacBody_bits (s : State) : (hmacBody s).bits = s.bits := rfl
@[simp] theorem hmacBody_kstate (s : State) : (hmacBody s).kstate = s.kstate := rfl
@[simp] theorem hmacBody_ctr (s : State) : (hmacBody s).ctr = s.ctr := rfl
@[simp] theorem hmacBody_digest (s : State) : (hmacBody s).digest = digestOf (stateHmac s) := rfl
@[simp] theorem hmacBody_toff (s : State) : (hmacBody s).toff = s.toff := rfl
@[simp] theorem hmacBody_tbin (s : State) : (hmacBody s).tbin = s.tbin := rfl
@[simp] theorem hmacBody_code (s : State) : (hmacBody s).code = s.code := rfl
@[simp] theorem hmacBody_err (s : State) : (hmacBody s).err = s.err := rfl
@[simp] theorem hmacBody_busy (s : State) : (hmacBody s).busy = s.busy := rfl
@[simp] theorem hmacBody_pend (s : State) : (hmacBody s).pend = s.pend := rfl
@[simp] theorem hmacBody_env (s : State) : (hmacBody s).env = s.env := rfl

/-! `passTime` -/

@[simp] theorem passTime_secret (rest : List HostOp) (s : State) : (passTime rest s).secret = s.secret := rfl
@[simp] theorem passTime_len (rest : List HostOp) (s : State) : (passTime rest s).len = s.len := rfl
@[simp] theorem passTime_acc (rest : List HostOp) (s : State) : (passTime rest s).acc = s.acc := rfl
@[simp] theorem passTime_bits (rest : List HostOp) (s : State) : (passTime rest s).bits = s.bits := rfl
@[simp] theorem passTime_kstate (rest : List HostOp) (s : State) : (passTime rest s).kstate = s.kstate := rfl
@[simp] theorem passTime_ctr (rest : List HostOp) (s : State) : (passTime rest s).ctr = s.ctr := rfl
@[simp] theorem passTime_digest (rest : List HostOp) (s : State) : (passTime rest s).digest = s.digest := rfl
@[simp] theorem passTime_toff (rest : List HostOp) (s : State) : (passTime rest s).toff = s.toff := rfl
@[simp] theorem passTime_tbin (rest : List HostOp) (s : State) : (passTime rest s).tbin = s.tbin := rfl
@[simp] theorem passTime_code (rest : List HostOp) (s : State) : (passTime rest s).code = s.code := rfl
@[simp] theorem passTime_err (rest : List HostOp) (s : State) : (passTime rest s).err = s.err := rfl
@[simp] theorem passTime_busy (rest : List HostOp) (s : State) : (passTime rest s).busy = s.busy := rfl
@[simp] theorem passTime_pend (rest : List HostOp) (s : State) : (passTime rest s).pend = s.pend := rfl
@[simp] theorem passTime_env (rest : List HostOp) (s : State) :
    (passTime rest s).env = { s.env with wait := s.env.wait - 1, hostOps := rest } := rfl

/-! `pushOp` -/

@[simp] theorem pushOp_secret (op : HostOp) (s : State) : (pushOp op s).secret = s.secret := rfl
@[simp] theorem pushOp_len (op : HostOp) (s : State) : (pushOp op s).len = s.len := rfl
@[simp] theorem pushOp_acc (op : HostOp) (s : State) : (pushOp op s).acc = s.acc := rfl
@[simp] theorem pushOp_bits (op : HostOp) (s : State) : (pushOp op s).bits = s.bits := rfl
@[simp] theorem pushOp_kstate (op : HostOp) (s : State) : (pushOp op s).kstate = s.kstate := rfl
@[simp] theorem pushOp_ctr (op : HostOp) (s : State) : (pushOp op s).ctr = s.ctr := rfl
@[simp] theorem pushOp_digest (op : HostOp) (s : State) : (pushOp op s).digest = s.digest := rfl
@[simp] theorem pushOp_toff (op : HostOp) (s : State) : (pushOp op s).toff = s.toff := rfl
@[simp] theorem pushOp_tbin (op : HostOp) (s : State) : (pushOp op s).tbin = s.tbin := rfl
@[simp] theorem pushOp_code (op : HostOp) (s : State) : (pushOp op s).code = s.code := rfl
@[simp] theorem pushOp_err (op : HostOp) (s : State) : (pushOp op s).err = s.err := rfl
@[simp] theorem pushOp_busy (op : HostOp) (s : State) : (pushOp op s).busy = s.busy := rfl
@[simp] theorem pushOp_pend (op : HostOp) (s : State) : (pushOp op s).pend = s.pend := rfl
@[simp] theorem pushOp_env (op : HostOp) (s : State) : (pushOp op s).env = { s.env with hostOps := op :: s.env.hostOps } :=
    rfl

/-! `block`: what changes only the environment leaves it. -/

@[simp] theorem block_passTime (rest : List HostOp) (s : State) : (passTime rest s).block = s.block := rfl
@[simp] theorem block_pushOp (op : HostOp) (s : State) : (pushOp op s).block = s.block := rfl
@[simp] theorem block_respond (r : Response) (s : State) : (respond r s).block = s.block := rfl
@[simp] theorem block_advanceDraw (s : State) : (advanceDraw s).block = s.block := by unfold advanceDraw; split <;> rfl

end Sys2Proof.Machine
end

