-- ==== Sys2Proof/Laws/Ops.lean ====
section
/-! SUPPORT. What each shared operation and each agent's move can do, said once. -/

namespace Sys2Proof.Machine

/-- Every command answers a next state in every state. -/
theorem exec_next (i : Instr) (s : State) : ∃ t, exec i s = .next t := by
  cases i <;>
    simp only [exec, execNop, execKeyclr, execB32Char, execB32End, execHmac, execTrunc, execTotp, execSreset]
  case b32Char ch =>
    split
    · exact ⟨_, rfl⟩
    · exact ⟨_, rfl⟩
    · split <;> exact ⟨_, rfl⟩
  case b32End =>
    split
    · exact ⟨_, rfl⟩
    · exact ⟨_, rfl⟩
    · split <;> exact ⟨_, rfl⟩
  case hmac => split <;> exact ⟨_, rfl⟩
  case totp => split <;> exact ⟨_, rfl⟩
  all_goals exact ⟨_, rfl⟩

/-- Feeding a symbol leaves what is not the decoder's or ERR. -/
theorem feedSymbol_frame (m : BitVec 5) (s : State) :
    feedSymbol m s = { s with
      secret := (feedSymbol m s).secret, len := (feedSymbol m s).len, acc := (feedSymbol m s).acc
      bits := (feedSymbol m s).bits, kstate := (feedSymbol m s).kstate, err := (feedSymbol m s).err } := by
  unfold feedSymbol
  split
  · rfl
  · split <;> rfl

/-- What feeding a symbol can do: buffer it, overflow, or store a byte (40_base32.md R104). -/
theorem feedSymbol_cases (m : BitVec 5) (s : State) :
    (∃ a k, accStep s.acc s.bits m = (a, k, none) ∧ feedSymbol m s = setAcc a k s) ∨
    (∃ a k out, accStep s.acc s.bits m = (a, k, some out) ∧ s.len.toNat = 64 ∧ feedSymbol m s = overflowKey s) ∨
    (∃ a k out, accStep s.acc s.bits m = (a, k, some out) ∧ s.len.toNat ≠ 64 ∧
      feedSymbol m s = setAcc a k (storeByte out s)) := by
  unfold feedSymbol
  rcases accStep s.acc s.bits m with ⟨a, k, _ | out⟩
  · exact .inl ⟨a, k, rfl, rfl⟩
  · by_cases h : s.len.toNat = 64
    · exact .inr (.inl ⟨a, k, out, rfl, h, if_pos h⟩)
    · exact .inr (.inr ⟨a, k, out, rfl, h, if_neg h⟩)

/-- A command's effect depends on neither the environment nor BUSY nor PEND, and leaves them. -/
theorem exec_inFlight_congr {c : Instr} (hc : c.mayBeInFlight = true) {s t : State} (h : exec c s = .next t) (e : Env)
    (b : Bool) (p : Option Instr) :
    exec c { s with busy := b, pend := p, env := e } = .next { t with busy := b, pend := p, env := e } := by
  cases c <;>
    simp only [exec, execNop, execKeyclr, execB32Char, execB32End, execHmac, execTrunc, execTotp, execSreset] at h ⊢
  case nop => cases hc
  case sreset => cases hc
  case keyclr => cases h; rfl
  case trunc => cases h; rfl
  case hmac => split at h <;> cases h <;> rename_i hk <;> (first | rw [if_pos hk] | rw [if_neg hk]) <;> rfl
  case totp => split at h <;> cases h <;> rename_i hk <;> (first | rw [if_pos hk] | rw [if_neg hk]) <;> rfl
  case b32End =>
    cases hk : s.kstate <;> simp only [hk] at h ⊢
    · split at h <;> cases h <;> rename_i hl <;> (first | rw [if_pos hl] | rw [if_neg hl]) <;> rfl
    · cases h; simp [raiseErr, hk]
    · cases h; simp [hk]
  case b32Char ch =>
    cases hk : s.kstate <;> simp only [hk] at h ⊢
    · cases hm : b32val ch with
      | none => rw [hm] at h; cases h; simp [hk]
      | some m =>
        rw [hm] at h
        cases h
        simp only [feedSymbol, Host.Outcome.next.injEq]
        split
        · simp only [setAcc, hk]
        · split <;> simp [setAcc, setKState, storeByte, overflowKey, raiseErr, hk]
    · cases h; simp [raiseErr, hk]
    · cases h; simp [hk]

/-- What a write of CMD can do (60_exceptions.md R210). -/
theorem issue_cases {v : Word} {s t : State} (h : issue v s = .next t) :
    (v = 0x0000000F ∧ t = blockReset s) ∨
    (v ≠ 0x0000000F ∧ s.busy = true ∧ t = raiseErr .busyViolation s) ∨
    (s.busy = false ∧ (∃ e, decode v = .error e) ∧ t = raiseErr .illegalCmd s) ∨
    (s.busy = false ∧ decode v = .ok .nop ∧ t = s) ∨
    (s.busy = false ∧ ∃ c, decode v = .ok c ∧ c.mayBeInFlight = true ∧ t = accept c s) := by
  unfold issue at h
  split at h
  · rename_i hv; cases h; exact .inl ⟨hv, rfl⟩
  rename_i hv
  split at h
  · rename_i hb; cases h; exact .inr (.inl ⟨hv, hb, rfl⟩)
  rename_i hb
  have hb : s.busy = false := by simpa using hb
  split at h
  · rename_i e he; cases h; exact .inr (.inr (.inl ⟨hb, ⟨e, he⟩, rfl⟩))
  · rename_i c hc
    unfold issueDecoded at h
    split at h
    · rename_i hf; cases h; exact .inr (.inr (.inr (.inr ⟨hb, c, hc, hf, rfl⟩)))
    · rename_i hf
      cases c <;> first | exact absurd rfl hf | skip
      · cases h; exact .inr (.inr (.inr (.inl ⟨hb, hc, rfl⟩)))
      · exact absurd (decode_sreset hc) hv

/-- A write of CMD always answers a next state. -/
theorem issue_next (v : Word) (s : State) : ∃ t, issue v s = .next t := by
  unfold issue
  split
  · exact exec_next _ _
  split
  · exact ⟨_, rfl⟩
  split
  · exact ⟨_, rfl⟩
  · unfold issueDecoded
    split
    · exact ⟨_, rfl⟩
    · exact exec_next _ _

/-- A read changes the environment alone. -/
theorem answerRead_sameBlock (r : Reg) (mk : Word → Response) (s : State) : s.SameBlock (answerRead r mk s) := by
  unfold answerRead advanceDraw State.SameBlock
  split <;> rfl

/-- A read takes no time and no move. -/
theorem answerRead_env (r : Reg) (mk : Word → Response) (s : State) :
    (answerRead r mk s).env.wait = s.env.wait ∧ (answerRead r mk s).env.hostOps = s.env.hostOps ∧
    (answerRead r mk s).env.accepted = s.env.accepted := by
  unfold answerRead advanceDraw
  split <;> exact ⟨rfl, rfl, rfl⟩

/-- A `MemRead`, legal or not, changes the environment alone. -/
theorem memRead_sameBlock (off n : Nat) (mk : Word → Response) (s : State) : s.SameBlock (memRead off n mk s) := by
  unfold memRead
  split
  · rfl
  · exact answerRead_sameBlock _ _ _

/-- The offset of an address in the window or above it. -/
@[simp] theorem windowOffset_base_add (off : Nat) : windowOffset (Config.base + off) = some off := by
  simp [windowOffset]

/-- What an address comes to: an offset from BASE, or none. -/
theorem windowOffset_cases (addr : Nat) :
    (∃ off, addr = Config.base + off ∧ windowOffset addr = some off) ∨
    (addr < Config.base ∧ windowOffset addr = none) := by
  unfold windowOffset
  by_cases h : Config.base ≤ addr
  · exact .inl ⟨addr - Config.base, by omega, if_pos h⟩
  · exact .inr ⟨by omega, if_neg h⟩

/-- A read at an address changes the environment alone. -/
theorem busRead_sameBlock (addr n : Nat) (s : State) : s.SameBlock (busRead addr n s) := by
  unfold busRead
  split
  · rfl
  · exact memRead_sameBlock _ _ _ _

/-- A write at an address is a write at its offset, or does not reach the block. -/
theorem busWrite_cases {addr n : Nat} {v : Word} {s t : State} (h : busWrite addr n v s = .next t) :
    (∃ off, addr = Config.base + off ∧ memWrite off n v s = .next t) ∨ (addr < Config.base ∧ t = missWindow addr s) := by
  unfold busWrite at h
  rcases windowOffset_cases addr with ⟨off, ha, ho⟩ | ⟨ha, ho⟩ <;> rw [ho] at h
  · exact .inl ⟨off, ha, h⟩
  · cases h; exact .inr ⟨ha, rfl⟩

/-- One read of POLL changes the environment alone. -/
theorem pollOnce_sameBlock (s : State) : s.SameBlock (pollOnce s) := by
  have h := answerRead_sameBlock .status (.data Reg.status.offset) s
  unfold pollOnce
  split
  · unfold State.SameBlock at h ⊢
    rw [h]
    rfl
  · exact h

/-- The bits the machine draws are those of R64's table. -/
theorem drawnBits_eq_busyMask (c : Instr) (r : Reg) : drawnBits c r = busyMask c r := by
  cases c <;> cases r <;> simp [drawnBits, writeSet, presentedBits, busyMask, ErrBit.mask, ErrBit.causeCode]

/-- The observation after one more response. -/
theorem readValues_respond (r : Response) (s : State) :
    (respond r s).readValues = s.readValues ++
      match r with
      | .data _ v => [v]
      | .checked _ v _ => [v]
      | .written _ => []
      | .busError _ => []
      | .notReached _ => [] := by
  cases r <;> simp [respond, State.readValues, List.filterMap_append]

/-- The checks after one more response. -/
theorem checksPassed_respond (r : Response) (s : State) :
    (respond r s).checksPassed =
      ((match r with
        | .checked _ v e => v == e
        | .data _ _ => true
        | .written _ => true
        | .busError _ => true
        | .notReached _ => true) && s.checksPassed) := by
  cases r <;> rfl

/-- A read mixes the draw and the exact value by the unspecified bits, also where there are none. -/
theorem readValue_eq (r : Reg) (s : State) :
    readValue r s = mixBits (unspecifiedBits r s) (Config.readDraw s.env.draws r s.block) (regValue r s) := by
  unfold readValue
  split
  · rename_i h
    rw [h, mixBits, show ~~~(0 : Word) = BitVec.allOnes 32 from rfl, BitVec.and_allOnes]
    simp
  · rfl

/-- The BUSY bit of a STATUS read is S.BUSY: no write set holds it (20_memory.md R65). -/
theorem readValue_busy (s : State) : (readValue .status s).getLsbD 0 = s.busy := by
  have hu : (unspecifiedBits .status s).getLsbD 0 = false := by
    unfold unspecifiedBits
    split
    · rename_i c _ _; cases c <;> first | decide | exact (by decide : (drawnBits (.b32Char 0) .status).getLsbD 0 = false)
    · rfl
  rw [readValue_eq, mixBits, BitVec.getLsbD_or, BitVec.getLsbD_and, BitVec.getLsbD_and, BitVec.getLsbD_not, hu]
  simp [regValue, statusWord]

/-- A guarded write while busy, and while idle. -/
theorem guardedWrite_cases (f : State → State) (s : State) :
    (s.busy = true ∧ guardedWrite f s = raiseErr .busyViolation s) ∨ (s.busy = false ∧ guardedWrite f s = f s) := by
  unfold guardedWrite
  cases h : s.busy
  · exact .inr ⟨rfl, by simp⟩
  · exact .inl ⟨rfl, by simp⟩

/-- What a step can do: the engine completes the command in flight, or the host has no move, or it makes its next. -/
theorem step_cases {s t : State} (h : step s = .next t) :
    (∃ c u, engineMoves s = true ∧ s.pend = some c ∧ exec c s = .next u ∧ t = retire u) ∨
    (engineMoves s = false ∧ s.env.hostOps = [] ∧ t = passTime [] s) ∨
    (∃ op rest, engineMoves s = false ∧ s.env.hostOps = op :: rest ∧ performOp op (passTime rest s) = .next t) := by
  unfold step at h
  cases hm : engineMoves s <;> simp only [hm, Bool.false_eq_true, if_false, if_true] at h
  · unfold hostTurn at h
    cases ho : s.env.hostOps with
    | nil => rw [ho] at h; cases h; exact .inr (.inl ⟨rfl, rfl, rfl⟩)
    | cons op rest => rw [ho] at h; exact .inr (.inr ⟨op, rest, rfl, rfl, h⟩)
  · unfold complete at h
    cases hp : s.pend with
    | none => rw [hp] at h; cases h
    | some c =>
      obtain ⟨u, hu⟩ := exec_next c s
      rw [hp] at h
      simp only [hu] at h
      cases h
      exact .inl ⟨c, u, rfl, rfl, hu, rfl⟩

/-- A register is reached at its own offset. -/
theorem accessTarget_offset (r : Reg) : accessTarget r.offset 4 = .ok r := by
  cases r with
  | digest k => revert k; decide
  | reserved k => revert k; decide
  | key k => revert k; decide
  | _ => rfl

end Sys2Proof.Machine
end

