-- ==== Sys2Proof/Laws/PerInstr.lean ====
section
/-! SUPPORT. The per-instruction family OneRow: the encoding of a well-formed command selects exactly one row of the
opcode map (30_encoding.md R83). -/

namespace Sys2Proof.Laws.OneRow

/-- The command's word selects exactly one row. -/
def Statement (i : Instr) : Prop :=
  i.wellFormed = true → (opRows.filter fun r => r.selects (encode i)).length = 1

theorem nop : Statement .nop := fun _ => rfl

theorem keyclr : Statement .keyclr := fun _ => rfl

theorem b32Char (ch : Byte) : Statement (.b32Char ch) := by
  have h : ∀ c : Byte, (opRows.filter fun r => r.selects (encode (.b32Char c))).length = 1 := by decide +kernel
  exact fun _ => h ch

theorem b32End : Statement .b32End := fun _ => rfl

theorem hmac : Statement .hmac := fun _ => rfl

theorem trunc : Statement .trunc := fun _ => rfl

theorem totp : Statement .totp := fun _ => rfl

theorem sreset : Statement .sreset := fun _ => rfl

end Sys2Proof.Laws.OneRow
end

