-- ==== Sys2Proof/Laws/Run.lean ====
section
/-! SUPPORT. Runs of several steps. -/

namespace Sys2Proof.Machine

/-- No step leaves the state. -/
theorem run_zero (s : State) : core.run 0 s = .next s := rfl

/-- The first step of a run of any machine. -/
theorem run_succ_core (M : Host.Core) {n : Nat} {s u : M.State} (h : M.step s = .next u) :
    M.run (n + 1) s = M.run n u := by
  rw [Host.Core.run.eq_2, h]

/-- A run of any machine in two parts. -/
theorem run_add_core (M : Host.Core) {n m : Nat} {s u : M.State} (h : M.run n s = .next u) :
    M.run (n + m) s = M.run m u := by
  induction n generalizing s with
  | zero => cases h; rw [Nat.zero_add]
  | succ k ih =>
    rw [Host.Core.run.eq_2] at h
    cases he : M.step s with
    | next w =>
      rw [he] at h
      rw [Nat.succ_add, run_succ_core M he]
      exact ih h
    | fault r => rw [he] at h; cases h
    | refused r => rw [he] at h; cases h

/-- The first step of a run. -/
theorem run_succ {n : Nat} {s u : State} (h : step s = .next u) : core.run (n + 1) s = core.run n u :=
  run_succ_core core h

/-- A run in two parts. -/
theorem run_add {n m : Nat} {s u : State} (h : core.run n s = .next u) : core.run (n + m) s = core.run m u :=
  run_add_core core h

end Sys2Proof.Machine
end

