-- ==== Sys2Proof/Tests/Slice0.lean ====
section
/-! SUPPORT. The model's own tests, with the source of each expected value, and for every statement with hypotheses a
witness that meets them. -/

namespace Sys2Proof.Tests

open Sys2Proof Sys2Proof.Machine

/-! ### Well-formedness and decoding (30_encoding.md R83 to R85; 95_test_vectors.md E-01 to E-08) -/

theorem test_wf_legal_words : ([0x0, 0x1, 0x4D02, 0xFF02, 0x3, 0x4, 0x5, 0x6, 0xF].map legalWord).all id = true := by
  decide

theorem test_wf_refuses_reserved_bits : legalWord 0x00010002 = false := by decide

theorem test_wf_refuses_data : legalWord 0x00000107 = false := by decide

theorem test_wf_refuses_opcode : legalWord 0x00000007 = false := by decide

theorem test_wf_nop_never_in_flight : Instr.mayBeInFlight .nop = false := by decide

theorem test_wf_sreset_never_in_flight : Instr.mayBeInFlight .sreset = false := by decide

theorem test_wf_refuses_width : legalAccess 0x00 2 = false := by decide

theorem test_wf_refuses_misaligned : legalAccess 0x06 4 = false := by decide

theorem test_rows_disjoint : opRows.Pairwise (fun r q => r.disjoint q = true) := by decide

theorem test_row_overlap_refused : OpRow.disjoint ⟨0x2, 0xFFFF00FF⟩ ⟨0x4D02, 0xFFFFFFFF⟩ = false := by decide

theorem test_decode_nop : decodeTableWord 32 0x00000000 = some .nop := by decide

theorem test_decode_keyclr : decodeTableWord 32 0x00000001 = some .keyclr := by decide

/-- R88: `CMD B32_CHAR 'M'` is 0x00004D02. -/
theorem test_decode_b32Char : decodeTableWord 32 0x00004D02 = some (.b32Char 0x4D) := by decide

theorem test_decode_b32End : decodeTableWord 32 0x00000003 = some .b32End := by decide

theorem test_decode_hmac : decodeTableWord 32 0x00000004 = some .hmac := by decide

theorem test_decode_trunc : decodeTableWord 32 0x00000005 = some .trunc := by decide

theorem test_decode_totp : decodeTableWord 32 0x00000006 = some .totp := by decide

theorem test_decode_sreset : decodeTableWord 32 0x0000000F = some .sreset := by decide

/-- E-02, E-03, E-04, E-05, E-06, E-08. -/
theorem test_decode_refuses :
    [0x100, 0x107, 0xFF, 0x10004, 0x10002, 0x10F].map (decodeTableWord 32) = [none, none, none, none, none, none] := by
  decide

/-! ### Helpers: small states -/

/-- The reset state with a sealed key and a counter. -/
def sealed (key : List Byte) (c : BitVec 64) : State :=
  { State.reset with
    secret := Vector.ofFn fun i => key.getD i.val 0, len := BitVec.ofNat 7 key.length, kstate := .valid, ctr := c }

/-- "12345678901234567890". -/
def rfcKey : List Byte :=
  [0x31, 0x32, 0x33, 0x34, 0x35, 0x36, 0x37, 0x38, 0x39, 0x30,
   0x31, 0x32, 0x33, 0x34, 0x35, 0x36, 0x37, 0x38, 0x39, 0x30]

/-- The RFC 4226 sample digest (T-01). -/
def rfcDigest : Vector Byte 20 :=
  #v[0x1F, 0x86, 0x98, 0x69, 0x0E, 0x02, 0xCA, 0x16, 0x61, 0x85,
     0x50, 0xEF, 0x7F, 0x19, 0xDA, 0x8E, 0x94, 0x5B, 0x55, 0x5A]

/-- The decoder with a length and an accumulator. -/
def loading (len : BitVec 7) (acc : BitVec 7) (bits : BitVec 3) : State :=
  { State.reset with len := len, acc := acc, bits := bits }

/-- A command in flight, its latency run out. -/
def inFlight (c : Instr) : State := { State.reset with busy := true, pend := some c }

/-- The reset state with host moves to make. -/
def withOps (ops : List HostOp) : State := { State.reset with env := { Env.initial with hostOps := ops } }

/-! ### Instructions -/

/-- 95_test_vectors.md, the trace of `MFRGG===`: 'F' after 'M' gives ACC = 1, BITS = 2, LEN = 1, byte 0x61. -/
theorem test_b32Char_emits : (nextState (exec (.b32Char 0x46) (loading 0 12 5))).map
    (fun t => (regValue .status t, regValue (.key 0) t)) = some (0x00010120, 0x61000000) := by decide

/-- B32-11: the 104th symbol overflows: STATUS 0x00004004, ERR 2. -/
theorem test_b32Char_overflow : (nextState (exec (.b32Char 0x37) (loading 64 7 3))).map
    (fun t => (regValue .status t, regValue .err t)) = some (0x00004004, 0x00000002) := by decide

/-- B32-31: B32_END on a sealed key raises KEY_SEALED. -/
theorem test_b32End_sealed : (nextState (exec .b32End (sealed [0xFF] 0))).map
    (fun t => (regValue .status t, regValue .err t)) = some (0x00000102, 0x00000020) := by decide

/-- B32-08: one symbol is no byte: STATUS 0x00000004, ERR 1. -/
theorem test_b32End_empty : (nextState (exec .b32End (loading 0 0 5))).map
    (fun t => (regValue .status t, regValue .err t)) = some (0x00000004, 0x00000001) := by decide

/-- B32-34: KEYCLR un-seals and zeroes the key. -/
theorem test_keyclr_unseals : (nextState (exec .keyclr (sealed [0xAA, 0xBB] 0))).map
    (fun t => (regValue .status t, regValue (.key 0) t)) = some (0x00000000, 0x00000000) := by decide

/-- H-02: DIGEST0 to DIGEST4 for the RFC key and counter 1. -/
theorem test_hmac_rfc4226 : (nextState (exec .hmac (sealed rfcKey 1))).map
    (fun t => [regValue (.digest 0) t, regValue (.digest 1) t, regValue (.digest 2) t, regValue (.digest 3) t,
      regValue (.digest 4) t]) = some [0x75A48A19, 0xD4CBE100, 0x644E8AC1, 0x397EEA74, 0x7A2D33AB] := by
  decide +kernel

/-- H-13: without a sealed key, KEY_NOT_READY. -/
theorem test_hmac_not_ready : (nextState (exec .hmac State.reset)).map (fun t => regValue .err t) = some 0x4 := by decide

/-- T-01. -/
theorem test_trunc_rfc4226 : (nextState (exec .trunc { State.reset with digest := rfcDigest })).map
    (fun t => (regValue .toff t, regValue .tbin t, regValue .code t)) = some (0xA, 0x50EF7F19, 872921) := by decide

/-- T-03: offset 15, bytes 15 to 18. -/
theorem test_trunc_all_ones : (nextState (exec .trunc { State.reset with digest := Vector.replicate 20 0xFF })).map
    (fun t => (regValue .toff t, regValue .tbin t, regValue .code t)) = some (0xF, 0x7FFFFFFF, 483647) := by decide

/-- R175's example: counter 1 gives 287082. -/
theorem test_totp_rfc6238 : (nextState (exec .totp (sealed rfcKey 1))).map (fun t => regValue .code t) =
    some 287082 := by decide +kernel

/-- TOTP-08. -/
theorem test_totp_not_ready : (nextState (exec .totp { State.reset with kstate := .failed })).map
    (fun t => regValue .err t) = some 0x4 := by decide

/-- E-12: SRESET while busy gives the reset state. -/
theorem test_sreset_busy : (nextState (issue 0x0000000F { inFlight .hmac with ctr := 5, err := 0x3F })).map
    (fun t => (regValue .status t, regValue .err t, regValue .ctrLo t, t.pend)) = some (0, 0, 0, none) := by decide

/-- E-01. -/
theorem test_nop_idle : (nextState (issue 0x00000000 (loading 3 1 2))).map (fun t => regValue .status t) =
    some 0x00010320 := by decide

/-! ### SHA-1 (95_test_vectors.md 2.2), the bus and the step -/

theorem test_sha1_abc : sha1 [0x61, 0x62, 0x63] =
    [0xa9, 0x99, 0x3e, 0x36, 0x47, 0x06, 0x81, 0x6a, 0xba, 0x3e, 0x25, 0x71, 0x78, 0x50, 0xc2, 0x6c, 0x9c, 0xd0, 0xd8,
      0x9d] := by decide +kernel

/-- E-09: TRUNC while HMAC is in flight. -/
theorem test_busy_violation : (nextState (memWrite 0x04 4 0x5 (inFlight .hmac))).map
    (fun t => (regValue .err t, t.pend)) = some (0x10, some .hmac) := by decide

/-- E-20. -/
theorem test_err_write_one_to_clear : (nextState (memWrite 0x0C 4 0x5 { State.reset with err := 0x0D })).map
    (fun t => regValue .err t) = some 0x8 := by decide

/-- E-23. -/
theorem test_err_write_busy : (nextState (memWrite 0x0C 4 0x1 { inFlight .hmac with err := 0x01 })).map
    (fun t => regValue .err t) = some 0x11 := by decide

/-- BUS-09. -/
theorem test_ctr_hi : (nextState (memWrite 0x14 4 0x1 { State.reset with ctr := 9 })).map (fun t => t.ctr) =
    some 0x0000000100000009 := by decide

/-- BUS-10. -/
theorem test_digest_write : (nextState (memWrite 0x24 4 0x01020304 State.reset)).map
    (fun t => (t.digest.toList.take 5, regValue (.digest 0) t)) = some ([1, 2, 3, 4, 0], 0x01020304) := by decide

/-- BUS-08. -/
theorem test_misaligned_read : (memRead 0x06 4 (.data 0x06) State.reset).env.obs = [.busError 0x06] := by decide

/-- BUS-01. -/
theorem test_read_id : (memRead 0x00 4 (.data 0x00) State.reset).env.obs = [.data 0x00 0x544F5450] := by decide

/-- P1's first row: KEYCLR placed for the next step is run by it. -/
theorem test_step_runs_placed : (nextState (step ((sealed [0xAA] 0).withFetchWord 32 0x1))).map
    (fun t => (t.kstate, t.len, t.busy, t.pend)) = some (.loading, 0, false, none) := by decide

/-- SRESET placed for the next step is the host's CMD write. -/
theorem test_step_runs_sreset : (nextState (step ((sealed [0xAA] 7).withFetchWord 32 0xF))).map
    (fun t => (t.kstate, t.ctr, t.env.obs)) = some (.loading, 0, [.written 0x04]) := by decide

/-- R89: POLL is made again while BUSY reads 1. -/
theorem test_poll_again : (nextState (step { inFlight .hmac with env := { Env.initial with
    hostOps := [.poll], wait := 2 } })).map (fun t => (t.env.hostOps, t.env.wait)) = some ([.poll], 1) := by decide

/-- R88: a read that misses its expected value fails the check, and one that meets it passes. -/
theorem test_check_result :
    ((nextState (step (withOps [.check 0x00 0]))).map State.checksPassed,
      (nextState (step (withOps [.check 0x00 0x544F5450]))).map State.checksPassed) = (some false, some true) := by decide

/-- R251: the observation is the values read. -/
theorem test_observation : (nextState (step (withOps [.read 0x00 4]))).map State.readValues = some [0x544F5450] := by
  decide

/-- R89: `SETCTR` writes CTR_LO, then CTR_HI. -/
theorem test_setCtr_ops : (HostStmt.setCtr 0x0000000200000001).ops = [.write 0x10 4 1, .write 0x14 4 2] := by decide

/-! ### Witnesses: concrete states and operands that meet the hypotheses of each statement -/

theorem reset_pendAccepted : State.reset.pendAccepted := fun _ h => by cases h

theorem inFlight_pendAccepted (c : Instr) (h : c.mayBeInFlight = true) : (inFlight c).pendAccepted := fun d hd => by
  cases hd
  exact h

theorem inFlight_inv (c : Instr) (h : c.mayBeInFlight = true) : (inFlight c).Inv where
  lenInRange := by change State.reset.lenInRange; decide
  accInBits := by change State.reset.accInBits; decide
  tailZero := by change State.reset.tailZero; decide
  validHasKey := by intro hv; cases hv
  closedAccEmpty := by intro hv; exact absurd rfl hv
  codeOfBin := by change State.reset.codeOfBin; decide
  busyIffPend := by simp [inFlight, State.busyIffPend]
  pendAccepted := inFlight_pendAccepted c h

theorem witness_IllegalWordsAreExact : decode 0x00000107 = .error .dataNotZero := by decide

theorem witness_DecodeEncodeAgree :
    Instr.wellFormed (.b32Char 0xFF) = true ∧ decode 0x0000FF02 = .ok (.b32Char 0xFF) := by decide

theorem witness_StepRunsTheCommand_engine :
    (inFlight .hmac).busy = true ∧ (inFlight .hmac).env.wait = 0 ∧ (inFlight .hmac).pend = some .hmac ∧
    ∃ t, exec .hmac (inFlight .hmac) = .next t := ⟨rfl, rfl, rfl, exec_next _ _⟩

theorem witness_StepRunsTheCommand_host :
    (withOps [.write 0x04 4 0x5]).busy = false ∧
    (withOps [.write 0x04 4 0x5]).env.hostOps = [.write 0x04 4 0x5] ∧ decode 0x5 = .ok .trunc ∧
    Instr.mayBeInFlight .trunc = true ∧ decode 0xF = .ok .sreset ∧ Instr.mayBeInFlight .sreset = false := by decide

theorem witness_StepRunsTheCommand_placed :
    decodeTableWord 32 0xFF02 = some (.b32Char 0xFF) ∧ Instr.mayBeInFlight (.b32Char 0xFF) = true ∧
    (∃ t, exec (.b32Char 0xFF) (State.reset.withFetchWord 32 0xFF02) = .next t) ∧
    decodeTableWord 32 0x0 = some .nop ∧ Instr.mayBeInFlight .nop = false :=
  ⟨by decide, rfl, exec_next _ _, by decide, rfl⟩

/-- An idle write of ERR, an illegal word, a write while busy, the platform's reset, and no move left. -/
theorem witness_StepRunsTheCommand_moves :
    (∀ op ∈ [HostOp.write 0x0C 4 0x3F, .write 0x04 4 0xFF, .read 0x7C 4, .idle, .reset],
      engineMoves (withOps [op]) = false ∧ (withOps [op]).env.hostOps = [op]) ∧
    engineMoves { inFlight .hmac with env := { Env.initial with hostOps := [.write 0x10 4 1], wait := 1 } } = false ∧
    engineMoves State.reset = false ∧ State.reset.env.hostOps = [] := by decide

theorem witness_StepRunsTheCommand_reset :
    (∃ t, exec .sreset (inFlight .hmac) = .next t) ∧ ∃ t, performOp .reset (inFlight .hmac) = .next t :=
  ⟨exec_next _ _, _, rfl⟩

theorem witness_NoStepStops : (inFlight .totp).Inv ∧ (inFlight .totp).busy = true := ⟨inFlight_inv _ rfl, rfl⟩

theorem witness_StepKeepsInv : (inFlight .keyclr).Inv ∧ ∃ t, step (inFlight .keyclr) = .next t :=
  ⟨inFlight_inv _ rfl, _, rfl⟩

theorem witness_ReachableStatesMeetR32 : ∃ t, core.run 1 (withOps [.write 0x10 4 9]) = .next t := ⟨_, rfl⟩

theorem witness_AcceptedCommandCompletes :
    let s : State := { inFlight .hmac with env := { Env.initial with hostOps := [.poll, .write 0x10 4 2], wait := 2 } }
    s.busy = true ∧ s.pend = some .hmac ∧ ∀ op ∈ s.env.hostOps.take s.env.wait, op.resetsBlock = false := by decide

theorem witness_PolledCommandsRunInOrder :
    let cs : List Instr := [.nop, .keyclr, .b32Char 0x4D, .sreset]
    let s := withOps (cs.flatMap cmdwOps ++ [.read 0x08 4])
    s.Quiet ∧ s.env.hostOps = cs.flatMap cmdwOps ++ [.read 0x08 4] ∧ (execAll cs s).isSome = true := by decide

theorem witness_FinalStateRests : State.reset.Final ∧ (inFlight .hmac).busy = true := by decide

theorem witness_ResetSetsEveryElement : State.reset.BlockIsReset :=
  ⟨rfl, rfl, rfl, rfl, rfl, rfl, rfl, rfl, rfl, rfl, rfl, rfl, rfl⟩

theorem witness_SresetAtAnyTime :
    (0x0000010F : Word).extractLsb' 0 8 = 0x0F#8 ∧ (0x0000010F : Word) ≠ 0x0000000F := by decide

theorem witness_NopDoesNothing : State.reset.busy = false ∧ (inFlight .hmac).busy = true := by decide

theorem witness_CommandRaisesAtMostOneError :
    (sealed [1] 0).kstate = .valid ∧ (loading 64 7 3).kstate = .loading ∧
    (∃ t, exec (.b32Char 0x37) (loading 64 7 3) = .next t) ∧ (∃ t, exec .b32End (sealed [1] 0) = .next t) ∧
    ∃ t, exec .totp State.reset = .next t :=
  ⟨rfl, rfl, exec_next _ _, exec_next _ _, exec_next _ _⟩

theorem witness_ErrBitsAreSticky :
    let s : State := { withOps [.write 0x0C 4 0x1] with err := 0x3 }
    s.pendAccepted ∧ s.err.getLsbD 0 = true ∧ (nextState (step s)).map (fun t => t.err.getLsbD 0) = some false :=
  by exact And.intro reset_pendAccepted (And.intro (by decide) (by decide))

theorem witness_RegisterMapIsTotal :
    0x7C < 0x80 ∧ 0x7C % 4 = 0 ∧ 0x80 ≤ 0x80 ∧ accessTarget 0x7C 4 = .ok (.key 15) ∧ accessTarget 0x1C 4 = .ok .tbin := by
  decide

theorem witness_IllegalAccessIsBusError :
    (0x06 < 0x80 ∧ ¬ (4 = 4 ∧ 0x06 % 4 = 0)) ∧ (0x00 < 0x80 ∧ ¬ (2 = 4 ∧ 0x00 % 4 = 0)) ∧
    (0x7F < 0x80 ∧ ¬ (4 = 4 ∧ 0x7F % 4 = 0)) := by decide

theorem witness_BusyReadsDrawTheWriteSet :
    (inFlight .b32End).busy = true ∧ (inFlight .b32End).pend = some .b32End := by decide

theorem witness_BusyWritesAreDiscarded : (inFlight .trunc).busy = true := by decide

theorem witness_ReadOnlyRegisters :
    State.reset.busy = false ∧ State.reset.codeOfBin ∧ 0x3C ∈ [0x00, 0x18, 0x1C, 0x20, 0x38, 0x3C] ∧
    (0x3C < 0x80 ∧ 0x3C % 4 = 0) ∧ (0x40 < 0x80 ∧ 0x40 % 4 = 0) := by decide

theorem witness_StatusFields : State.reset.lenInRange ∧ State.reset.accInBits := by decide

theorem witness_OnlyTheseStepsChangeResults_engine :
    (inFlight .trunc).pendAccepted ∧ (nextState (step { inFlight .trunc with digest := rfcDigest })).map
      (fun t => t.code) = some 872921 := ⟨inFlight_pendAccepted _ rfl, by decide⟩

theorem witness_OnlyTheseStepsChangeResults_host :
    (withOps [.write 0x34 4 0x5A]).pendAccepted ∧ (nextState (step (withOps [.write 0x34 4 0x5A]))).map
      (fun t => t.digest.toList.getLast?) = some (some 0x5A) := ⟨reset_pendAccepted, by decide⟩

theorem witness_ErrWriteClearsOnes : (sealed [1] 0).busy = false := by decide

theorem witness_DigestRegisters : (sealed [1] 0).kstate = .valid := by decide

theorem witness_KeyRegisters :
    (sealed [0xAA, 0xBB] 0).tailZero ∧ (sealed [0xAA, 0xBB] 0).len.toNat ≤ 4 * (0 : Fin 16).val + (2 : Fin 4).val := by
  decide

theorem witness_CommandsKeepTheirWriteSet :
    (∃ t, exec .nop State.reset = .next t) ∧ (∃ t, exec .keyclr State.reset = .next t) ∧
    (∃ t, exec (.b32Char 0x4D) State.reset = .next t) ∧ (∃ t, exec .b32End State.reset = .next t) ∧
    (∃ t, exec .hmac State.reset = .next t) ∧ (∃ t, exec .trunc State.reset = .next t) ∧
    ∃ t, exec .totp State.reset = .next t :=
  ⟨exec_next _ _, exec_next _ _, exec_next _ _, exec_next _ _, exec_next _ _, exec_next _ _, exec_next _ _⟩

theorem witness_UndrawnBitsAreStable :
    Instr.mayBeInFlight (.b32Char 0x37) = true ∧ ∃ t, exec (.b32Char 0x37) (loading 64 7 3) = .next t :=
  ⟨rfl, exec_next _ _⟩

theorem witness_SealedKeyIsImmutable_keyclr :
    let s : State := { inFlight .keyclr with kstate := .failed, len := 64 }
    s.pendAccepted ∧ s.kstate ≠ .loading ∧ (nextState (step s)).map (fun t => t.kstate) = some .loading :=
  by refine And.intro (fun c hc => ?_) (And.intro (by decide) (by decide)); cases hc; rfl

theorem witness_SealedKeyIsImmutable_kept :
    let s : State := { sealed [1] 0 with pend := some (.b32Char 0x41), busy := true }
    s.pendAccepted ∧ s.kstate ≠ .loading ∧ (nextState (step s)).map (fun t => t.kstate) = some .valid :=
  by refine And.intro (fun c hc => ?_) (And.intro (by decide) (by decide)); cases hc; rfl

theorem witness_AccumulatorStep_buffers : (3#7).toNat < 2 ^ (2#3).toNat ∧ ((accStep 3 2 31).2.2) = none := by decide

theorem witness_AccumulatorStep_emits : (7#7).toNat < 2 ^ (3#3).toNat ∧ ((accStep 7 3 31).2.2) = some 0xFF := by decide

theorem witness_KeyclrOpensTheDecode : (inFlight .hmac).busy = true := by decide

theorem witness_B32CharFeedsOneCharacter :
    (sealed [1] 0).kstate = .valid ∧ ({ State.reset with kstate := .failed } : State).kstate = .failed ∧
    b32val 0x3D = none ∧ b32val 0x37 = some 31 ∧
    ((loading 3 3 2).kstate = .loading ∧ (loading 3 3 2).accInBits ∧ (loading 3 3 2).lenInRange ∧ (2#3).toNat + 5 < 8) ∧
    ((loading 64 7 3).kstate = .loading ∧ (loading 64 7 3).accInBits ∧ (loading 64 7 3).lenInRange) ∧
    ((loading 63 127 7).kstate = .loading ∧ (loading 63 127 7).accInBits ∧ (loading 63 127 7).lenInRange) := by decide

theorem witness_B32EndSealsTheKey :
    (sealed [1] 0).kstate = .valid ∧ ({ State.reset with kstate := .failed } : State).kstate = .failed ∧
    ((loading 0 0 5).kstate = .loading ∧ (loading 0 0 5).len.toNat = 0) ∧
    ((loading 1 3 2).kstate = .loading ∧ 0 < (loading 1 3 2).len.toNat) := by decide

theorem witness_DecoderCountsSymbols :
    State.reset.Opened ∧ (symbols (List.replicate 103 0x41)).length = 103 ∧
    (symbols (List.replicate 104 0x41)).length = 104 := by decide +kernel

theorem witness_LoadKeyOutcomes :
    (symbols [0x41]).length = 1 ∧ (symbols [0x41, 0x3D, 0x42]).length = 2 ∧
    (symbols (List.replicate 103 0x37)).length = 103 ∧ (symbols (List.replicate 104 0x37)).length = 104 := by
  decide +kernel

/-- L1.4: lower case and a space do not matter. -/
theorem witness_LoadKeyIsDeterministic : symbols [0x4A, 0x42, 0x53] = symbols [0x6A, 0x62, 0x20, 0x73] := by decide

theorem witness_ScheduleRecurrence : (List.replicate 64 (0x5C : Byte)).length = 64 ∧ 16 ≤ 16 ∧ 79 < 80 := by decide

theorem witness_HmacIsFourCompressions : (List.replicate 64 (0xFF : Byte)).length = 64 := by decide

theorem witness_HmacWritesTheDigest :
    (sealed rfcKey 1).kstate = .valid ∧ (sealed rfcKey 1).lenInRange ∧ (sealed rfcKey 1).tailZero ∧
    State.reset.kstate ≠ .valid := by decide +kernel

/-- H-06 and H-07: one zero byte and 64 zero bytes. -/
theorem witness_HmacWritesTheDigest_zeros :
    let s := sealed [0x00] 0
    let s' := sealed (List.replicate 64 0x00) 0
    s.kstate = .valid ∧ s'.kstate = .valid ∧ s.lenInRange ∧ s'.lenInRange ∧
    keyBytes s' = keyBytes s ++ List.replicate 63 0x00 ∧ s.ctr = s'.ctr := by decide +kernel

theorem witness_HmacWritesTheDigest_example :
    (sealed rfcKey 1).kstate = .valid ∧ (sealed rfcKey 1).ctr = 1 ∧ keyBytes (sealed rfcKey 1) = rfcKey := by
  decide +kernel

theorem witness_MessageIsTheCounter : (sealed [1] 7).kstate = .valid := by decide

theorem witness_RoundFunctionsAndConstants : 79 ≤ 79 ∧ 31 < 32 := by decide

theorem witness_CompressionIsEightyRounds : (List.replicate 64 (0x00 : Byte)).length = 64 ∧ 79 < 80 := by decide

theorem witness_Sha1FoldsTheBlocks : (blocks (pad []))[0]? = some (0x80 :: List.replicate 63 0) := by decide +kernel

theorem witness_HmacNestsTwoHashes : (List.replicate 64 (0x01 : Byte)).length = 64 := by decide

theorem witness_HmacIsAPureFunction :
    let s := sealed [0x61] 5
    let s' : State := { sealed [0x61] 5 with digest := rfcDigest }
    s.kstate = .valid ∧ s'.kstate = .valid ∧ s.lenInRange ∧ s'.lenInRange ∧ keyBytes s = keyBytes s' ∧
    s.ctr = s'.ctr := by decide +kernel

theorem witness_TruncTruncatesTheDigest :
    (inFlight .hmac).busy = true ∧ ({ State.reset with digest := rfcDigest } : State).digest = rfcDigest ∧
    ({ State.reset with digest := Vector.replicate 20 0xFF } : State).digest = Vector.replicate 20 0xFF := by decide

theorem witness_TotpIsHmacThenTrunc : (sealed [1] 0).kstate = .valid ∧ State.reset.kstate ≠ .valid := by decide

theorem witness_CodesAreInRangeAndDeterministic :
    (∃ t, exec .trunc State.reset = .next t) ∧ (sealed [1] 0).kstate = .valid ∧ (sealed [1] 0).lenInRange ∧
    (∃ t, exec .totp (sealed [1] 0) = .next t) ∧ State.reset.codeOfBin ∧ State.reset.kstate ≠ .valid ∧
    ∃ t, exec .totp State.reset = .next t :=
  ⟨exec_next _ _, rfl, by decide, exec_next _ _, by decide, by decide, exec_next _ _⟩

theorem witness_HostStatementsExpand :
    (withOps ((HostStmt.setDigest rfcDigest).ops ++ [.poll])).busy = false ∧
    (withOps ((HostStmt.setDigest rfcDigest).ops ++ [.poll])).env.hostOps =
      (HostStmt.setDigest rfcDigest).ops ++ [.poll] := ⟨rfl, rfl⟩

theorem witness_ObservationIsTheValuesRead_host :
    (∀ op ∈ [HostOp.read 0x7C 4, .check 0x00 1, .poll, .read 0x80 4, .read 0x06 4, .read 0x04 2, .idle, .reset,
      .write 0x10 4 1], engineMoves (withOps [op]) = false ∧ (nextState (step (withOps [op]))).isSome = true) ∧
    Reg.offset (.key 15) = 0x7C ∧ Reg.offset .id = 0x00 := by decide

theorem witness_ObservationIsTheValuesRead_address :
    engineMoves (withOps [.readAt (Config.base + 0x7C) 4]) = false ∧ Config.base + 0x7C = Config.base + Reg.offset (.key 15) ∧
    ¬ ∃ r : Reg, Config.base + 0x7D = Config.base + r.offset ∧ 4 = 4 := by
  refine ⟨rfl, rfl, fun ⟨r, h, _⟩ => ?_⟩
  have : r.offset = 0x7D := by omega
  cases r <;> simp only [Reg.offset] at this <;> omega

/-- One address above the window whatever BASE is, and one below it where BASE is not 0. -/
theorem witness_AddressesAreRelativeToBase :
    Config.base + 0x7F < Config.base + 0x80 ∧ (Config.base ≠ 0 → Config.base - 1 < Config.base) := by omega

theorem witness_ObservationIsTheValuesRead_engine :
    engineMoves (inFlight .trunc) = true ∧ (nextState (step (inFlight .trunc))).isSome = true := by decide

end Sys2Proof.Tests
end

section
/-! PROOFS. A command in flight completes (20_memory.md R59, R62, R66): what one move of the host can do while BUSY = 1,
then the host's moves up to the engine's turn, then the engine's turn itself. -/

namespace Sys2Proof.Machine

/-! Two states of one command in flight -/

/-- What the host can do to a block with a command in flight, short of resetting it (20_memory.md R66): the environment
moves on and BUSY_VIOLATION may be raised, and nothing else differs. -/
structure State.KeptInFlight (s t : State) : Prop where
  frame : t = { s with err := t.err, env := t.env }
  err : t.err = s.err ∨ t.err = s.err ||| ErrBit.busyViolation.mask

theorem State.KeptInFlight.of_sameBlock {s t : State} (h : s.SameBlock t) : s.KeptInFlight t := by
  unfold State.SameBlock at h
  rw [h]
  exact ⟨rfl, .inl rfl⟩

theorem State.KeptInFlight.refl (s : State) : s.KeptInFlight s := .of_sameBlock rfl

theorem keptInFlight_raiseErr (s : State) : s.KeptInFlight (raiseErr .busyViolation s) := ⟨rfl, .inr rfl⟩

/-- Raising BUSY_VIOLATION twice is raising it once (60_exceptions.md R200). -/
theorem State.KeptInFlight.trans {s t u : State} (hst : s.KeptInFlight t) (htu : t.KeptInFlight u) :
    s.KeptInFlight u := by
  obtain ⟨hft, het⟩ := hst
  obtain ⟨hfu, heu⟩ := htu
  refine ⟨by rw [hfu, hft], ?_⟩
  rcases het with het | het <;> rcases heu with heu | heu <;> rw [heu, het]
  · exact .inl rfl
  · exact .inr rfl
  · exact .inr rfl
  · exact .inr (by rw [BitVec.or_assoc, BitVec.or_self])

theorem State.KeptInFlight.busy {s t : State} (h : s.KeptInFlight t) : t.busy = s.busy := by rw [h.frame]

theorem State.KeptInFlight.pend {s t : State} (h : s.KeptInFlight t) : t.pend = s.pend := by rw [h.frame]

/-! Writes while a command is in flight -/

/-- The register of each aligned offset of the window stands at that offset (10_state.md R33). -/
theorem Reg.offset_ofIndex {i : Nat} (h : i < 32) : (Reg.ofIndex i).offset = 4 * i := by
  have hall : ∀ i : Fin 32, (Reg.ofIndex i.val).offset = 4 * i.val := by decide
  exact hall ⟨i, h⟩

/-- An access that reaches a register is 4 bytes wide and at the register's own offset (20_memory.md R54). -/
theorem offset_of_accessTarget {off n : Nat} {r : Reg} (h : accessTarget off n = .ok r) : r.offset = off ∧ n = 4 := by
  unfold accessTarget at h
  split at h
  · cases h
  rename_i hwin
  split at h
  · rename_i hlegal
    cases h
    simp only [legalAccess, Bool.and_eq_true, beq_iff_eq] at hlegal
    simp only [Config.windowLen, ge_iff_le, not_le] at hwin
    obtain ⟨hn, haligned⟩ := hlegal
    exact ⟨(Reg.offset_ofIndex (by omega)).trans (by omega), hn⟩
  · cases h

/-- A write to a register while busy is ignored or raises BUSY_VIOLATION, unless it is SRESET's (20_memory.md R57, R63,
R66). -/
theorem writeReg_whileBusy {r : Reg} {v : Word} {s : State} (hb : s.busy = true) (hv : r = .cmd → v ≠ sresetWord) :
    writeReg r v s = .next s ∨ writeReg r v s = .next (raiseErr .busyViolation s) := by
  cases r with
  | cmd => exact .inr (by simp [writeReg, issue, hv rfl, hb])
  | err => exact .inr (by simp [writeReg, guardedWrite, hb])
  | ctrLo => exact .inr (by simp [writeReg, guardedWrite, hb])
  | ctrHi => exact .inr (by simp [writeReg, guardedWrite, hb])
  | digest k => exact .inr (by simp [writeReg, guardedWrite, hb])
  | id | status | toff | tbin | code | reserved k | key k => exact .inl rfl

/-- A `MemWrite` while busy, legal or not, is answered, and apart from that does nothing or raises BUSY_VIOLATION,
unless it is the write of SRESET. -/
theorem memWrite_whileBusy {off n : Nat} {v : Word} {s : State} (hb : s.busy = true)
    (hv : ¬ (off = 0x04 ∧ n = 4 ∧ v = sresetWord)) :
    ∃ r, memWrite off n v s = .next (respond r s) ∨
      memWrite off n v s = .next (raiseErr .busyViolation (respond r s)) := by
  unfold memWrite
  split
  · exact ⟨_, .inl rfl⟩
  · rename_i reg hreg
    refine ⟨_, writeReg_whileBusy hb ?_⟩
    rintro rfl hw
    obtain ⟨hoff, hn⟩ := offset_of_accessTarget hreg
    exact hv ⟨hoff.symm, hn, hw⟩

/-- A write at an address while busy does what the write at its offset does, or does not reach the block. -/
theorem busWrite_whileBusy {addr n : Nat} {v : Word} {s : State} (hb : s.busy = true)
    (hv : ¬ (addr = Config.base + 0x04 ∧ n = 4 ∧ v = sresetWord)) :
    ∃ r, busWrite addr n v s = .next (respond r s) ∨
      busWrite addr n v s = .next (raiseErr .busyViolation (respond r s)) := by
  unfold busWrite
  rcases windowOffset_cases addr with ⟨off, rfl, ho⟩ | ⟨_, ho⟩ <;> rw [ho]
  · exact memWrite_whileBusy hb (by simpa using hv)
  · exact ⟨_, .inl rfl⟩

/-! One move of the host while a command is in flight -/

/-- A move `op` of the host takes the block with its command in flight from `s` to `t`, and leaves what is still to
wait. It is used up, or put back as POLL is (30_encoding.md R89). -/
structure MovesInFlight (op : HostOp) (s t : State) : Prop where
  kept : s.KeptInFlight t
  wait : t.env.wait = s.env.wait
  hostOps : t.env.hostOps = s.env.hostOps ∨ t.env.hostOps = op :: s.env.hostOps

theorem movesInFlight_respond (op : HostOp) (r : Response) (s : State) : MovesInFlight op s (respond r s) :=
  ⟨.of_sameBlock rfl, rfl, .inl rfl⟩

theorem movesInFlight_raiseErr_respond (op : HostOp) (r : Response) (s : State) :
    MovesInFlight op s (raiseErr .busyViolation (respond r s)) :=
  ⟨(State.KeptInFlight.of_sameBlock rfl).trans (keptInFlight_raiseErr _), rfl, .inl rfl⟩

theorem movesInFlight_answerRead (op : HostOp) (r : Reg) (mk : Word → Response) (s : State) :
    MovesInFlight op s (answerRead r mk s) := by
  obtain ⟨hwait, hops, -⟩ := answerRead_env r mk s
  exact ⟨.of_sameBlock (answerRead_sameBlock r mk s), hwait, .inl hops⟩

theorem movesInFlight_memRead (op : HostOp) (off n : Nat) (mk : Word → Response) (s : State) :
    MovesInFlight op s (memRead off n mk s) := by
  unfold memRead
  split
  · exact movesInFlight_respond op _ s
  · exact movesInFlight_answerRead op _ mk s

theorem movesInFlight_busRead (op : HostOp) (addr n : Nat) (s : State) : MovesInFlight op s (busRead addr n s) := by
  unfold busRead
  split
  · exact movesInFlight_respond op _ s
  · exact movesInFlight_memRead op _ n _ s

theorem movesInFlight_pollOnce (s : State) : MovesInFlight .poll s (pollOnce s) := by
  have hkept := State.KeptInFlight.of_sameBlock (answerRead_sameBlock .status (.data Reg.status.offset) s)
  obtain ⟨hwait, hops, -⟩ := answerRead_env .status (.data Reg.status.offset) s
  unfold pollOnce
  split
  · exact ⟨hkept.trans (.of_sameBlock rfl), hwait, .inr (congrArg (List.cons HostOp.poll) hops)⟩
  · exact ⟨hkept, hwait, .inl hops⟩

/-- A write that comes to its answer, with or without BUSY_VIOLATION, moves the block in flight. -/
theorem movesInFlight_of_answered {op : HostOp} {s : State} {o : Host.Outcome State Fault Refusal}
    (h : ∃ r, o = .next (respond r s) ∨ o = .next (raiseErr .busyViolation (respond r s))) :
    ∃ t, o = .next t ∧ MovesInFlight op s t := by
  obtain ⟨r, ho | ho⟩ := h
  · exact ⟨_, ho, movesInFlight_respond op r s⟩
  · exact ⟨_, ho, movesInFlight_raiseErr_respond op r s⟩

/-- While busy every move of the host but a reset leaves the command in flight with its operands (20_memory.md R59,
R66). -/
theorem performOp_whileBusy {op : HostOp} {s : State} (hb : s.busy = true) (hr : op.resetsBlock = false) :
    ∃ t, performOp op s = .next t ∧ MovesInFlight op s t := by
  cases op with
  | read off n => exact ⟨_, rfl, movesInFlight_memRead _ off n _ s⟩
  | readAt addr n => exact ⟨_, rfl, movesInFlight_busRead _ addr n s⟩
  | check off e => exact ⟨_, rfl, movesInFlight_memRead _ off 4 _ s⟩
  | poll => exact ⟨_, rfl, movesInFlight_pollOnce s⟩
  | idle => exact ⟨_, rfl, .refl s, rfl, .inl rfl⟩
  | reset => cases hr
  | write off n v =>
    refine movesInFlight_of_answered (memWrite_whileBusy hb ?_)
    rintro ⟨rfl, rfl, rfl⟩
    cases hr
  | writeAt addr n v =>
    refine movesInFlight_of_answered (busWrite_whileBusy hb ?_)
    rintro ⟨rfl, rfl, rfl⟩
    simp [HostOp.resetsBlock, sresetWord] at hr

/-! Steps while a command is in flight -/

/-- None of the host's moves up to the engine's turn resets the block. -/
abbrev State.NoResetAhead (s : State) : Prop := ∀ op ∈ s.env.hostOps.take s.env.wait, op.resetsBlock = false

/-- While the latency has not run out a step is the host's: the command stays in flight, one host move less is to be
waited for, and a reset ahead is none that was not ahead before. -/
theorem step_whileWaiting {s : State} {n : Nat} (hb : s.busy = true) (hw : s.env.wait = n + 1) (hr : s.NoResetAhead) :
    ∃ t, step s = .next t ∧ s.KeptInFlight t ∧ t.env.wait = n ∧ t.NoResetAhead := by
  have hstep : step s = hostTurn s := by simp [step, engineMoves, hw]
  rw [hstep, hostTurn]
  unfold State.NoResetAhead at hr
  cases hops : s.env.hostOps with
  | nil => exact ⟨_, rfl, .of_sameBlock rfl, by simp [hw], by simp [State.NoResetAhead]⟩
  | cons op rest =>
    rw [hops, hw, List.take_succ_cons] at hr
    obtain ⟨hop, hrest⟩ := List.forall_mem_cons.1 hr
    obtain ⟨t, ht, hkept, hwait, hleft⟩ := performOp_whileBusy (s := passTime rest s) hb hop
    have hwt : t.env.wait = n := by rw [hwait]; simp [hw]
    refine ⟨t, ht, (State.KeptInFlight.of_sameBlock rfl).trans hkept, hwt, ?_⟩
    unfold State.NoResetAhead
    rw [hwt]
    rcases hleft with hleft | hleft <;> rw [hleft]
    · exact hrest
    · have hsub : (op :: rest).take n ⊆ op :: rest.take n := List.take_subset_take_left _ (Nat.le_succ n)
      exact fun x hx => hr x (hsub hx)

/-- The run up to the engine's turn keeps the command in flight, by induction on the latency that is left. -/
theorem run_toEnginesTurn {s : State} (hb : s.busy = true) (hr : s.NoResetAhead) :
    ∃ u, core.run s.env.wait s = .next u ∧ s.KeptInFlight u ∧ u.env.wait = 0 := by
  generalize hw : s.env.wait = n
  induction n generalizing s with
  | zero => exact ⟨s, run_zero s, .refl s, hw⟩
  | succ n ih =>
    obtain ⟨t, hstep, hkept, hwait, hahead⟩ := step_whileWaiting hb hw hr
    obtain ⟨u, hrun, hkept', hdone⟩ := ih (hkept.busy.trans hb) hahead hwait
    exact ⟨u, (run_succ hstep).trans hrun, hkept.trans hkept', hdone⟩

/-- On the engine's turn a step carries out the command in flight and clears PEND and BUSY (20_memory.md R62). -/
theorem step_enginesTurn {s t : State} {c : Instr} (hb : s.busy = true) (hp : s.pend = some c) (hw : s.env.wait = 0)
    (h : exec c s = .next t) : step s = .next (retire t) := by
  simp [step, engineMoves, complete, hb, hp, hw, h]

/-- Settles O10, by induction on the latency that is left: each host move short of a reset keeps the command in flight
(20_memory.md R59, R66), and the step after them is the engine's (R62). That latency is counted in host moves is the
model's choice (log 2). -/
theorem acceptedCommandCompletes : Obligations.AcceptedCommandCompletes := by
  unfold Obligations.AcceptedCommandCompletes
  intro s c hb hp hr
  obtain ⟨u, hrun, hkept, hdone⟩ := run_toEnginesTurn hb hr
  refine ⟨u, hrun, hkept.frame, hdone, hkept.err, fun t ht => ?_⟩
  have hstep : step u = .next (retire t) := step_enginesTurn (hkept.busy.trans hb) (hkept.pend.trans hp) hdone ht
  calc core.run (s.env.wait + 1) s = core.run 1 u := run_add hrun
    _ = core.run 0 (retire t) := run_succ hstep
    _ = .next (retire t) := run_zero _

end Sys2Proof.Machine
end

section
/-! PROOFS. What a step can do, said once for all: what a command in flight does to the block (40_base32.md R103 to R105,
41_hmac_sha1.md R140, 42_truncation.md R174, R175), what one move of the host does to it (20_memory.md R51 to R66), and the
step as one of the two. -/

namespace Sys2Proof.Machine

/-! What a command can do -/

/-- What each command that may be in flight does to the block, with the guard of each case. -/
inductive CommandEffect (s : State) : Instr → State → Prop where
  | opens : CommandEffect s .keyclr (setKState .loading (setAcc 0 0 (clearKey s)))
  /-- A character after a failed decode, or one that is no symbol (40_base32.md R104). -/
  | skips (ch : Byte) : s.kstate = .failed ∨ s.kstate = .loading ∧ b32val ch = none → CommandEffect s (.b32Char ch) s
  | feeds (ch : Byte) (m : BitVec 5) : s.kstate = .loading → b32val ch = some m →
      CommandEffect s (.b32Char ch) (feedSymbol m s)
  | staysFailed : s.kstate = .failed → CommandEffect s .b32End s
  /-- The decode ends with no byte (40_base32.md R105). -/
  | fails : s.kstate = .loading → s.len = 0 →
      CommandEffect s .b32End (setKState .failed (raiseErr .invalidSecret (setAcc 0 0 s)))
  | seals : s.kstate = .loading → s.len ≠ 0 → CommandEffect s .b32End (setKState .valid (setAcc 0 0 s))
  | keySealed (c : Instr) : c = .b32End ∨ (∃ ch, c = .b32Char ch) → s.kstate = .valid →
      CommandEffect s c (raiseErr .keySealed s)
  | keyNotReady (c : Instr) : c = .hmac ∨ c = .totp → s.kstate ≠ .valid → CommandEffect s c (raiseErr .keyNotReady s)
  | hashes : s.kstate = .valid → CommandEffect s .hmac (hmacBody s)
  | truncates : CommandEffect s .trunc (truncBody s)
  | computes : s.kstate = .valid → CommandEffect s .totp (truncBody (hmacBody s))

theorem execB32Char_effect {ch : Byte} {s t : State} (h : execB32Char ch s = .next t) :
    CommandEffect s (.b32Char ch) t := by
  unfold execB32Char at h
  split at h
  · cases h; exact .keySealed _ (.inr ⟨ch, rfl⟩) ‹_›
  · cases h; exact .skips ch (.inl ‹_›)
  · rename_i hk
    split at h
    · cases h; exact .skips ch (.inr ⟨hk, ‹_›⟩)
    · cases h; exact .feeds ch _ hk ‹_›

theorem execB32End_effect {s t : State} (h : execB32End s = .next t) : CommandEffect s .b32End t := by
  unfold execB32End at h
  split at h
  · cases h; exact .keySealed _ (.inl rfl) ‹_›
  · cases h; exact .staysFailed ‹_›
  · rename_i hk
    split at h
    · cases h; exact .fails hk ‹_›
    · cases h; exact .seals hk ‹_›

theorem execHmac_effect {s t : State} (h : execHmac s = .next t) : CommandEffect s .hmac t := by
  unfold execHmac at h
  split at h
  · cases h; exact .keyNotReady _ (.inl rfl) ‹_›
  · cases h; exact .hashes (not_not.1 ‹_›)

theorem execTotp_effect {s t : State} (h : execTotp s = .next t) : CommandEffect s .totp t := by
  unfold execTotp at h
  split at h
  · cases h; exact .keyNotReady _ (.inr rfl) ‹_›
  · cases h; exact .computes (not_not.1 ‹_›)

/-- Every command that may be in flight has one of its effects. -/
theorem exec_effect {c : Instr} {s t : State} (hc : c.mayBeInFlight = true) (h : exec c s = .next t) :
    CommandEffect s c t := by
  cases c with
  | nop | sreset => cases hc
  | keyclr => cases h; exact .opens
  | trunc => cases h; exact .truncates
  | b32Char ch => exact execB32Char_effect h
  | b32End => exact execB32End_effect h
  | hmac => exact execHmac_effect h
  | totp => exact execTotp_effect h

/-! What one move of the host can do -/

/-- What one move of the host does to the block, with the guard of each case; the environment after it is
not fixed. -/
inductive HostEffect (op : HostOp) (s : State) : State → Prop where
  /-- A read, an access without effect, an illegal access or none at all. -/
  | keeps (env : Env) : HostEffect op s { s with env := env }
  | resets (env : Env) : op.resetsBlock = true → HostEffect op s { State.reset with env := env }
  /-- A write that is discarded while busy (20_memory.md R66). -/
  | violates (env : Env) : s.busy = true → HostEffect op s { raiseErr .busyViolation s with env := env }
  /-- An illegal command word written while idle (30_encoding.md R85). -/
  | refuses (v : Word) (env : Env) : s.busy = false → op.writesAt 0x04 v → (∃ e, decode v = .error e) →
      HostEffect op s { raiseErr .illegalCmd s with env := env }
  | accepts (v : Word) (c : Instr) (env : Env) : s.busy = false → op.writesAt 0x04 v → decode v = .ok c →
      c.mayBeInFlight = true → HostEffect op s { accept c s with env := env }
  | clearsErr (v : Word) (env : Env) : s.busy = false → op.writesAt 0x0C v →
      HostEffect op s { clearErr v s with env := env }
  | setsCtrLo (v : Word) (env : Env) : s.busy = false → op.writesAt 0x10 v →
      HostEffect op s { setCtrLo v s with env := env }
  | setsCtrHi (v : Word) (env : Env) : s.busy = false → op.writesAt 0x14 v →
      HostEffect op s { setCtrHi v s with env := env }
  | setsDigest (k : Fin 5) (v : Word) (env : Env) : s.busy = false → op.writesAt (0x24 + 4 * k.val) v →
      HostEffect op s { setDigestWord k v s with env := env }

theorem HostEffect.of_sameBlock {op : HostOp} {s t : State} (h : s.SameBlock t) : HostEffect op s t := by
  unfold State.SameBlock at h
  rw [h]
  exact .keeps _

/-- The effect on the block does not depend on the environment before the move. -/
theorem HostEffect.of_withEnv {op : HostOp} {s t : State} {e : Env} (h : HostEffect op { s with env := e } t) :
    HostEffect op s t := by
  cases h with
  | keeps env => exact .keeps env
  | resets env hr => exact .resets env hr
  | violates env hb => exact .violates env hb
  | refuses v env hb hw hd => exact .refuses v env hb hw hd
  | accepts v c env hb hw hd hc => exact .accepts v c env hb hw hd hc
  | clearsErr v env hb hw => exact .clearsErr v env hb hw
  | setsCtrLo v env hb hw => exact .setsCtrLo v env hb hw
  | setsCtrHi v env hb hw => exact .setsCtrHi v env hb hw
  | setsDigest k v env hb hw => exact .setsDigest k v env hb hw

/-- The write of 0x0000000F to CMD resets the block, however it names its place (20_memory.md R51, R63). -/
theorem resetsBlock_of_writesAt {op : HostOp} (h : op.writesAt 0x04 0x0000000F) : op.resetsBlock = true := by
  rcases h with rfl | rfl <;> simp [HostOp.resetsBlock]

theorem issue_effect {op : HostOp} {v : Word} {s t : State} (hop : op.writesAt 0x04 v) (h : issue v s = .next t) :
    HostEffect op s t := by
  rcases issue_cases h with ⟨rfl, rfl⟩ | ⟨-, hb, rfl⟩ | ⟨hb, hd, rfl⟩ | ⟨-, -, rfl⟩ | ⟨hb, c, hd, hc, rfl⟩
  · exact .resets _ (resetsBlock_of_writesAt hop)
  · exact .violates _ hb
  · exact .refuses v _ hb hop hd
  · exact .keeps _
  · exact .accepts v c _ hb hop hd hc

/-- A guarded write is discarded with BUSY_VIOLATION while busy, and has the register's own effect while idle. -/
theorem guardedWrite_effect {op : HostOp} {f : State → State} {s : State}
    (hf : s.busy = false → HostEffect op s (f s)) : HostEffect op s (guardedWrite f s) := by
  rcases guardedWrite_cases f s with ⟨hb, hg⟩ | ⟨hb, hg⟩ <;> rw [hg]
  · exact .violates _ hb
  · exact hf hb

theorem writeReg_effect {op : HostOp} {r : Reg} {v : Word} {s t : State} (hop : op.writesAt r.offset v)
    (h : writeReg r v s = .next t) : HostEffect op s t := by
  cases r with
  | cmd => exact issue_effect hop h
  | err => cases h; exact guardedWrite_effect fun hb => .clearsErr v _ hb hop
  | ctrLo => cases h; exact guardedWrite_effect fun hb => .setsCtrLo v _ hb hop
  | ctrHi => cases h; exact guardedWrite_effect fun hb => .setsCtrHi v _ hb hop
  | digest k => cases h; exact guardedWrite_effect fun hb => .setsDigest k v _ hb hop
  | id | status | toff | tbin | code | reserved _ | key _ => cases h; exact .keeps _

/-- `hop` says that a 4-byte write at this offset is the move `op`. -/
theorem memWrite_effect {op : HostOp} {off n : Nat} {v : Word} {s t : State} (hop : n = 4 → op.writesAt off v)
    (h : memWrite off n v s = .next t) : HostEffect op s t := by
  unfold memWrite at h
  split at h
  · cases h; exact .keeps _
  · rename_i r hr
    obtain ⟨rfl, hn⟩ := offset_of_accessTarget hr
    exact (writeReg_effect (hop hn) h).of_withEnv

theorem busWrite_effect {addr n : Nat} {v : Word} {s t : State} (h : busWrite addr n v s = .next t) :
    HostEffect (.writeAt addr n v) s t := by
  rcases busWrite_cases h with ⟨off, rfl, hw⟩ | ⟨-, rfl⟩
  · exact memWrite_effect (by rintro rfl; exact .inr rfl) hw
  · exact .keeps _

theorem performOp_effect {op : HostOp} {s t : State} (h : performOp op s = .next t) : HostEffect op s t := by
  cases op with
  | read off n => cases h; exact .of_sameBlock (memRead_sameBlock off n _ s)
  | readAt addr n => cases h; exact .of_sameBlock (busRead_sameBlock addr n s)
  | check off e => cases h; exact .of_sameBlock (memRead_sameBlock off 4 _ s)
  | poll => cases h; exact .of_sameBlock (pollOnce_sameBlock s)
  | idle => cases h; exact .keeps _
  | reset => cases h; exact .resets _ rfl
  | write off n v => exact memWrite_effect (by rintro rfl; exact .inl rfl) h
  | writeAt addr n v => exact busWrite_effect h

/-! What a step can do -/

/-- What a step does to the block: the engine completes the command in flight, or the host makes its next move, or has
none left. -/
inductive StepEffect (s : State) : State → Prop where
  | completes {c : Instr} {u : State} : engineMoves s = true → s.pend = some c → CommandEffect s c u →
      StepEffect s (retire u)
  | rests (env : Env) : engineMoves s = false → StepEffect s { s with env := env }
  | moves {op : HostOp} {t : State} : engineMoves s = false → s.env.hostOps.head? = some op → HostEffect op s t →
      StepEffect s t

theorem step_effect {s t : State} (hp : s.pendAccepted) (h : step s = .next t) : StepEffect s t := by
  rcases step_cases h with ⟨c, u, hm, hc, hu, rfl⟩ | ⟨hm, -, rfl⟩ | ⟨op, rest, hm, ho, hop⟩
  · exact .completes hm hc (exec_effect (hp c hc) hu)
  · exact .rests _ hm
  · exact .moves hm (by rw [ho]; rfl) (performOp_effect hop).of_withEnv

end Sys2Proof.Machine
end

section
/-! PROOFS. The invariants of 10_state.md R32 with the one of 20_memory.md R64: each operation keeps them, so each command,
each move of the host and each step does, so every run from reset does. -/

namespace Sys2Proof.Machine

/-! The reset state -/

/-- The truncation of the all-zero digest is the reset value of the results (10_state.md R46). -/
theorem trunc_zeroDigest :
    truncOffset (Vector.replicate 20 0) = 0 ∧ truncBin (Vector.replicate 20 0) = 0 ∧
    truncCode (Vector.replicate 20 0) = 0 := by decide

theorem reset_inv : State.reset.Inv where
  lenInRange := by decide
  accInBits := by decide
  tailZero := by decide
  validHasKey := fun hv => by cases hv
  closedAccEmpty := fun hk => absurd rfl hk
  codeOfBin := by decide
  busyIffPend := by decide
  pendAccepted := fun c hc => by cases hc

/-! Each operation keeps the invariants -/

theorem State.Inv.withEnv {s : State} (h : s.Inv) (e : Env) : ({ s with env := e } : State).Inv := { h with }

theorem State.Inv.raiseErr {s : State} (h : s.Inv) (e : ErrBit) : (raiseErr e s).Inv := { h with }

theorem State.Inv.clearErr {s : State} (h : s.Inv) (v : Word) : (clearErr v s).Inv := { h with }

theorem State.Inv.setCtrLo {s : State} (h : s.Inv) (v : Word) : (setCtrLo v s).Inv := { h with }

theorem State.Inv.setCtrHi {s : State} (h : s.Inv) (v : Word) : (setCtrHi v s).Inv := { h with }

theorem State.Inv.setDigestWord {s : State} (h : s.Inv) (k : Fin 5) (v : Word) : (setDigestWord k v s).Inv := { h with }

theorem State.Inv.hmacBody {s : State} (h : s.Inv) : (hmacBody s).Inv := { h with }

theorem State.Inv.retire {s : State} (h : s.Inv) : (retire s).Inv :=
  { h with
    busyIffPend := by simp [State.busyIffPend]
    pendAccepted := fun c hc => by cases hc }

theorem State.Inv.accept {s : State} {c : Instr} (h : s.Inv) (hc : c.mayBeInFlight = true) : (accept c s).Inv :=
  { h with
    busyIffPend := by simp [State.busyIffPend]
    pendAccepted := fun d hd => by cases hd; exact hc }

/-- The remainder by 1000000 fits the 20 bits of CODE (42_truncation.md R173). -/
theorem truncCode_toNat (d : Vector Byte 20) : (truncCode d).toNat = (truncBin d).toNat % 1000000 := by
  simp only [truncCode, Config.modulus, BitVec.toNat_ofNat]
  omega

theorem State.Inv.truncBody {s : State} (h : s.Inv) : (truncBody s).Inv :=
  { h with codeOfBin := truncCode_toNat s.digest }

theorem State.Inv.emptyAcc {s : State} (h : s.Inv) : (setAcc 0 0 s).Inv :=
  { h with
    accInBits := by simp [State.accInBits]
    closedAccEmpty := fun _ => ⟨rfl, rfl⟩ }

theorem State.Inv.setAcc {s : State} {a : BitVec 7} {k : BitVec 3} (h : s.Inv) (hk : s.kstate = .loading)
    (ha : a.toNat < 2 ^ k.toNat) : (setAcc a k s).Inv :=
  { h with
    accInBits := ha
    closedAccEmpty := fun hc => absurd hk hc }

/-- The key store may go to a state whose demands are met: a byte for VALID, and an empty accumulator unless LOADING. -/
theorem State.Inv.setKState {s : State} {k : KState} (h : s.Inv) (hlen : k = .valid → s.len ≠ 0)
    (hacc : k ≠ .loading → s.acc = 0 ∧ s.bits = 0) : (setKState k s).Inv :=
  { h with
    validHasKey := fun hv => ⟨Nat.pos_of_ne_zero fun h0 => hlen hv (BitVec.eq_of_toNat_eq h0), h.lenInRange⟩
    closedAccEmpty := hacc }

/-- KEYCLR's effect meets the invariants that speak of the key store, whatever the key was (40_base32.md R103). -/
theorem State.Inv.opened {s : State} (h : s.Inv) : (Machine.setKState .loading (Machine.setAcc 0 0 (clearKey s))).Inv :=
  { h with
    lenInRange := by simp [State.lenInRange]
    accInBits := by simp [State.accInBits]
    tailZero := fun i _ => by simp
    validHasKey := fun hv => by cases hv
    closedAccEmpty := fun _ => ⟨rfl, rfl⟩ }

/-- Below 64 bytes LEN counts one more and the byte stands below it (40_base32.md R104). -/
theorem State.Inv.storeByte {s : State} (h : s.Inv) (hk : s.kstate = .loading) (hl : s.len.toNat ≠ 64) (out : Byte) :
    (storeByte out s).Inv := by
  have hlen : (s.len + 1).toNat = s.len.toNat + 1 := by have := h.lenInRange; bv_omega
  refine { h with lenInRange := ?_, tailZero := ?_, validHasKey := fun hv => ?_ }
  · have := h.lenInRange
    simp only [State.lenInRange, storeByte_len, hlen]
    omega
  · intro i hi
    rw [storeByte_len, hlen] at hi
    simp only [storeByte_secret]
    rw [Vector.getElem_setIfInBounds_ne (by omega) (by omega)]
    exact h.tailZero i (by omega)
  · rw [storeByte_kstate, hk] at hv
    cases hv

theorem State.Inv.overflowKey {s : State} (h : s.Inv) : (overflowKey s).Inv :=
  { h with
    accInBits := by simp [State.accInBits]
    validHasKey := fun hv => by cases hv
    closedAccEmpty := fun _ => ⟨rfl, rfl⟩ }

/-- The buffered number stays below 2^BITS (40_base32.md R102). -/
theorem accStep_lt {a : BitVec 7} {k : BitVec 3} (ha : a.toNat < 2 ^ k.toNat) (m : BitVec 5) :
    (accStep a k m).1.toNat < 2 ^ (accStep a k m).2.1.toNat := by
  have hm := m.isLt
  unfold accStep
  simp only
  split
  · rename_i hn
    have ht : a.toNat * 32 + m.toNat < 2 ^ (k.toNat + 5) := by rw [Nat.pow_add]; omega
    have hp : 2 ^ (k.toNat + 5) ≤ 2 ^ 7 := Nat.pow_le_pow_right (by omega) (by omega)
    rw [BitVec.toNat_ofNat, BitVec.toNat_ofNat, Nat.mod_eq_of_lt hn, Nat.mod_eq_of_lt (by omega)]
    exact ht
  · rename_i hn
    have hk : k.toNat + 5 - 8 < 2 ^ 3 := by omega
    rw [BitVec.toNat_ofNat, BitVec.toNat_ofNat, Nat.mod_eq_of_lt hk]
    exact (Nat.mod_le _ _).trans_lt (Nat.mod_lt _ (by positivity))

theorem State.Inv.feedSymbol {s : State} (h : s.Inv) (hk : s.kstate = .loading) (m : BitVec 5) :
    (feedSymbol m s).Inv := by
  have hacc := accStep_lt h.accInBits m
  rcases feedSymbol_cases m s with ⟨a, k, ha, hf⟩ | ⟨a, k, out, -, -, hf⟩ | ⟨a, k, out, ha, hl, hf⟩ <;> rw [hf]
  · rw [ha] at hacc
    exact h.setAcc hk hacc
  · exact h.overflowKey
  · rw [ha] at hacc
    exact (h.storeByte hk hl out).setAcc hk hacc

/-! Steps and runs -/

theorem CommandEffect.inv {c : Instr} {s t : State} (h : CommandEffect s c t) (hs : s.Inv) : t.Inv := by
  cases h with
  | opens => exact hs.opened
  | skips _ _ => exact hs
  | feeds ch m hk _ => exact hs.feedSymbol hk m
  | staysFailed _ => exact hs
  | fails _ _ => exact (hs.emptyAcc.raiseErr _).setKState (fun hv => by cases hv) fun _ => ⟨rfl, rfl⟩
  | seals _ hl => exact hs.emptyAcc.setKState (fun _ => hl) fun _ => ⟨rfl, rfl⟩
  | keySealed _ _ _ => exact hs.raiseErr _
  | keyNotReady _ _ _ => exact hs.raiseErr _
  | hashes _ => exact hs.hmacBody
  | truncates => exact hs.truncBody
  | computes _ => exact hs.hmacBody.truncBody

theorem HostEffect.inv {op : HostOp} {s t : State} (h : HostEffect op s t) (hs : s.Inv) : t.Inv := by
  cases h with
  | keeps e => exact hs.withEnv e
  | resets e _ => exact reset_inv.withEnv e
  | violates e _ => exact (hs.raiseErr _).withEnv e
  | refuses _ e _ _ _ => exact (hs.raiseErr _).withEnv e
  | accepts _ _ e _ _ _ hc => exact (hs.accept hc).withEnv e
  | clearsErr v e _ _ => exact (hs.clearErr v).withEnv e
  | setsCtrLo v e _ _ => exact (hs.setCtrLo v).withEnv e
  | setsCtrHi v e _ _ => exact (hs.setCtrHi v).withEnv e
  | setsDigest k v e _ _ => exact (hs.setDigestWord k v).withEnv e

/-- Settles O7: the step is a command's completion, a rest or a move of the host, and each keeps the invariants
(10_state.md R32). -/
theorem stepKeepsInv : Obligations.StepKeepsInv := by
  intro s t hs h
  cases step_effect hs.pendAccepted h with
  | completes _ _ hc => exact (hc.inv hs).retire
  | rests e _ => exact hs.withEnv e
  | moves _ _ hop => exact hop.inv hs

/-- Settles O8: the reset values meet each invariant (10_state.md R46). -/
theorem resetMeetsInv : Obligations.ResetMeetsInv := reset_inv

/-- What every step of a machine keeps, every run keeps, by induction on its length. -/
theorem run_keeps_core (M : Host.Core) {P : M.State → Prop} (hstep : ∀ s t, P s → M.step s = .next t → P t) {n : Nat}
    {s t : M.State} (hs : P s) (h : M.run n s = .next t) : P t := by
  induction n generalizing s with
  | zero => cases h; exact hs
  | succ n ih =>
    rw [Host.Core.run.eq_2] at h
    cases hu : M.step s with
    | next u => rw [hu] at h; exact ih (hstep s u hs hu) h
    | fault r => rw [hu] at h; cases h
    | refused r => rw [hu] at h; cases h

theorem run_inv {n : Nat} {s t : State} (hs : s.Inv) (h : core.run n s = .next t) : t.Inv :=
  run_keeps_core core stepKeepsInv hs h

/-- Settles O9: the reset state meets the invariants with any host's moves, and every run keeps them; the bounds on BITS,
TOFF and TBIN are the fields' widths. -/
theorem reachableStatesMeetR32 : Obligations.ReachableStatesMeetR32 := by
  intro ops n t h
  have ht : t.Inv := run_inv (reset_inv.withEnv _) h
  exact ⟨ht.lenInRange, ⟨Nat.le_of_lt_succ t.bits.isLt, ht.accInBits⟩, ht.tailZero, ht.validHasKey, ht.closedAccEmpty,
    ⟨Nat.le_of_lt_succ t.toff.isLt, t.tbin.isLt, ht.codeOfBin⟩, ht.busyIffPend⟩

/-! Reset from every state -/

theorem blockReset_blockIsReset (s : State) : (blockReset s).BlockIsReset where
  secret := rfl
  len := rfl
  acc := rfl
  bits := rfl
  kstate := rfl
  ctr := rfl
  digest := rfl
  toff := rfl
  tbin := rfl
  code := rfl
  err := rfl
  busy := rfl
  pend := rfl

/-- A block at its reset values is the reset state, with an environment of its own. -/
theorem State.BlockIsReset.eq_reset {s : State} (h : s.BlockIsReset) : s = { State.reset with env := s.env } := by
  cases s
  obtain ⟨rfl, rfl, rfl, rfl, rfl, rfl, rfl, rfl, rfl, rfl, rfl, rfl, rfl⟩ := h
  rfl

/-- Settles O13: both resets are `blockReset` (10_state.md R46), and a block at its reset values meets what the reset state
meets. -/
theorem resetSetsEveryElement : Obligations.ResetSetsEveryElement := by
  intro s
  refine ⟨⟨_, rfl, blockReset_blockIsReset s⟩, ⟨_, rfl, blockReset_blockIsReset s⟩, fun h => ?_⟩
  rw [h.eq_reset]
  exact ⟨reset_inv.withEnv _, trunc_zeroDigest⟩

end Sys2Proof.Machine
end

section
/-! PROOFS. What only some steps change: ERR bits stay set (10_state.md R30), a sealed key stays (R26), and the counter, the
digest and the results have few writers (R27 to R29; 70_reset_and_hazards.md R243). -/

namespace Sys2Proof.Machine

/-! ERR bits -/

theorem getLsbD_raiseErr {s : State} {n : Nat} (h : s.err.getLsbD n = true) (e : ErrBit) :
    (raiseErr e s).err.getLsbD n = true := by simp [h]

theorem CommandEffect.keepsErr {c : Instr} {s t : State} (h : CommandEffect s c t) {n : Nat}
    (hn : s.err.getLsbD n = true) : t.err.getLsbD n = true := by
  cases h with
  | feeds ch m _ _ =>
    rcases feedSymbol_cases m s with ⟨a, k, -, hf⟩ | ⟨a, k, out, -, -, hf⟩ | ⟨a, k, out, -, -, hf⟩ <;> rw [hf]
    · exact hn
    · simp [hn]
    · exact hn
  | fails _ _ => exact getLsbD_raiseErr (s := setAcc 0 0 s) hn _
  | keySealed _ _ _ => exact getLsbD_raiseErr hn _
  | keyNotReady _ _ _ => exact getLsbD_raiseErr hn _
  | opens | skips _ _ | staysFailed _ | seals _ _ | hashes _ | truncates | computes _ => exact hn

theorem HostEffect.keepsErr {op : HostOp} {s t : State} (h : HostEffect op s t) {n : Nat} (hn : s.err.getLsbD n = true) :
    t.err.getLsbD n = true ∨ op.resetsBlock = true ∨
      ∃ v, op.writesAt 0x0C v ∧ s.busy = false ∧ v.getLsbD n = true := by
  cases h with
  | resets _ hr => exact .inr (.inl hr)
  | violates _ _ => exact .inl (getLsbD_raiseErr hn _)
  | refuses _ _ _ _ _ => exact .inl (getLsbD_raiseErr hn _)
  | clearsErr v _ hb hw =>
    cases hv : v.getLsbD n with
    | true => exact .inr (.inr ⟨v, hw, hb, hv⟩)
    | false => exact .inl (by simp [hn, hv, BitVec.lt_of_getLsbD hn])
  | keeps _ | accepts _ _ _ _ _ _ _ | setsCtrLo _ _ _ _ | setsCtrHi _ _ _ _ | setsDigest _ _ _ _ _ => exact .inl hn

/-- Settles O18: no command clears a bit, and of the host's moves only a reset and the write of ERR with a 1 there do. -/
theorem errBitsAreSticky : Obligations.ErrBitsAreSticky := by
  intro s t n hp h hn hcleared
  cases step_effect hp h with
  | completes _ _ hc => exact absurd (hc.keepsErr hn) (by simpa using hcleared)
  | rests _ _ => exact absurd hn (by simpa using hcleared)
  | moves hm ho hop => exact ⟨hm, _, ho, (hop.keepsErr hn).resolve_left (by simp [hcleared])⟩

/-! The sealed key -/

/-- The key store and its lifecycle state are as before. -/
structure State.KeepsKey (s t : State) : Prop where
  kstate : t.kstate = s.kstate
  secret : t.secret = s.secret
  len : t.len = s.len

theorem CommandEffect.keepsKey {c : Instr} {s t : State} (h : CommandEffect s c t) (hk : s.kstate ≠ .loading) :
    s.KeepsKey t ∨ (t.kstate = .loading ∧ c = .keyclr) := by
  cases h with
  | opens => exact .inr ⟨rfl, rfl⟩
  | feeds _ _ hl _ => exact absurd hl hk
  | fails hl _ => exact absurd hl hk
  | seals hl _ => exact absurd hl hk
  | skips _ _ | staysFailed _ | keySealed _ _ _ | keyNotReady _ _ _ | hashes _ | truncates | computes _ =>
    exact .inl ⟨rfl, rfl, rfl⟩

theorem HostEffect.keepsKey {op : HostOp} {s t : State} (h : HostEffect op s t) :
    s.KeepsKey t ∨ (t.kstate = .loading ∧ op.resetsBlock = true) := by
  cases h with
  | resets _ hr => exact .inr ⟨rfl, hr⟩
  | keeps _ | violates _ _ | refuses _ _ _ _ _ | accepts _ _ _ _ _ _ _ | clearsErr _ _ _ _ | setsCtrLo _ _ _ _
  | setsCtrHi _ _ _ _ | setsDigest _ _ _ _ _ => exact .inl ⟨rfl, rfl, rfl⟩

/-- Settles O33: outside LOADING only KEYCLR and a reset touch the key. -/
theorem sealedKeyIsImmutable : Obligations.SealedKeyIsImmutable := by
  intro s t hp h hk
  cases step_effect hp h with
  | completes hm hc hcmd =>
    rcases hcmd.keepsKey hk with ⟨hkstate, hsecret, hlen⟩ | ⟨hl, rfl⟩
    · exact .inl ⟨hkstate, hsecret, hlen⟩
    · exact .inr ⟨hl, .inl ⟨hm, hc⟩⟩
  | rests _ _ => exact .inl ⟨rfl, rfl, rfl⟩
  | moves hm ho hop =>
    rcases hop.keepsKey with ⟨hkstate, hsecret, hlen⟩ | ⟨hl, hr⟩
    · exact .inl ⟨hkstate, hsecret, hlen⟩
    · exact .inr ⟨hl, .inr ⟨hm, _, ho, hr⟩⟩

/-! The counter, the digest and the results -/

@[simp] theorem feedSymbol_ctr (m : BitVec 5) (s : State) : (feedSymbol m s).ctr = s.ctr := by rw [feedSymbol_frame]
@[simp] theorem feedSymbol_digest (m : BitVec 5) (s : State) : (feedSymbol m s).digest = s.digest := by
  rw [feedSymbol_frame]
@[simp] theorem feedSymbol_toff (m : BitVec 5) (s : State) : (feedSymbol m s).toff = s.toff := by rw [feedSymbol_frame]
@[simp] theorem feedSymbol_tbin (m : BitVec 5) (s : State) : (feedSymbol m s).tbin = s.tbin := by rw [feedSymbol_frame]
@[simp] theorem feedSymbol_code (m : BitVec 5) (s : State) : (feedSymbol m s).code = s.code := by rw [feedSymbol_frame]

/-- The truncation results are as before. -/
structure State.KeepsResults (s t : State) : Prop where
  toff : t.toff = s.toff
  tbin : t.tbin = s.tbin
  code : t.code = s.code

theorem CommandEffect.keepsCtr {c : Instr} {s t : State} (h : CommandEffect s c t) : t.ctr = s.ctr := by
  cases h with
  | feeds _ m _ _ => exact feedSymbol_ctr m s
  | _ => rfl

theorem CommandEffect.keepsDigest {c : Instr} {s t : State} (h : CommandEffect s c t) :
    t.digest = s.digest ∨ c = .hmac ∨ c = .totp := by
  cases h with
  | hashes _ => exact .inr (.inl rfl)
  | computes _ => exact .inr (.inr rfl)
  | feeds _ m _ _ => exact .inl (feedSymbol_digest m s)
  | _ => exact .inl rfl

theorem CommandEffect.keepsResults {c : Instr} {s t : State} (h : CommandEffect s c t) :
    s.KeepsResults t ∨ c = .trunc ∨ c = .totp := by
  cases h with
  | truncates => exact .inr (.inl rfl)
  | computes _ => exact .inr (.inr rfl)
  | feeds _ m _ _ => exact .inl ⟨feedSymbol_toff m s, feedSymbol_tbin m s, feedSymbol_code m s⟩
  | _ => exact .inl ⟨rfl, rfl, rfl⟩

theorem HostEffect.keepsCtr {op : HostOp} {s t : State} (h : HostEffect op s t) :
    t.ctr = s.ctr ∨ op.resetsBlock = true ∨ (s.busy = false ∧ ∃ v, op.writesAt 0x10 v ∨ op.writesAt 0x14 v) := by
  cases h with
  | resets _ hr => exact .inr (.inl hr)
  | setsCtrLo v _ hb hw => exact .inr (.inr ⟨hb, v, .inl hw⟩)
  | setsCtrHi v _ hb hw => exact .inr (.inr ⟨hb, v, .inr hw⟩)
  | _ => exact .inl rfl

theorem HostEffect.keepsDigest {op : HostOp} {s t : State} (h : HostEffect op s t) :
    t.digest = s.digest ∨ op.resetsBlock = true ∨
      (s.busy = false ∧ ∃ (k : Fin 5) (v : Word), op.writesAt (0x24 + 4 * k.val) v) := by
  cases h with
  | resets _ hr => exact .inr (.inl hr)
  | setsDigest k v _ hb hw => exact .inr (.inr ⟨hb, k, v, hw⟩)
  | _ => exact .inl rfl

theorem HostEffect.keepsResults {op : HostOp} {s t : State} (h : HostEffect op s t) :
    s.KeepsResults t ∨ op.resetsBlock = true := by
  cases h with
  | resets _ hr => exact .inr hr
  | _ => exact .inl ⟨rfl, rfl, rfl⟩

theorem State.KeepsResults.not_changed {s t : State} (h : s.KeepsResults t) :
    ¬ (t.toff ≠ s.toff ∨ t.tbin ≠ s.tbin ∨ t.code ≠ s.code) := by simp [h.toff, h.tbin, h.code]

/-- Settles O34: for each of the three, what a command and what a move of the host may do to it. -/
theorem onlyTheseStepsChangeResults : Obligations.OnlyTheseStepsChangeResults := by
  intro s t hp h
  cases step_effect hp h with
  | completes hm hc hcmd =>
    rw [hc]
    refine ⟨fun hctr => absurd hcmd.keepsCtr hctr, fun hd => .inl ⟨hm, ?_⟩, fun hr => .inl ⟨hm, ?_⟩⟩
    · simpa using hcmd.keepsDigest.resolve_left hd
    · simpa using hcmd.keepsResults.resolve_left fun hk => hk.not_changed hr
  | rests _ _ =>
    exact ⟨fun hctr => absurd rfl hctr, fun hd => absurd rfl hd,
      fun hr => absurd hr (State.KeepsResults.not_changed ⟨rfl, rfl, rfl⟩)⟩
  | moves hm ho hop =>
    exact ⟨fun hctr => ⟨hm, _, ho, hop.keepsCtr.resolve_left hctr⟩,
      fun hd => .inr ⟨hm, _, ho, hop.keepsDigest.resolve_left hd⟩,
      fun hr => .inr ⟨hm, _, ho, hop.keepsResults.resolve_left fun hk => hk.not_changed hr⟩⟩

end Sys2Proof.Machine
end

section
/-! PROOFS. The register window: which register an offset reaches (10_state.md R33, R44; 20_memory.md R51), what a write of
each kind of register does (R57), and how each register presents its element (10_state.md R34 to R43). -/

namespace Sys2Proof.Machine

/-! Where an access goes -/

theorem Reg.offset_aligned (r : Reg) : r.offset % 4 = 0 ∧ r.offset < 0x80 := by
  cases r with
  | digest k => have := k.isLt; simp only [Reg.offset]; omega
  | reserved k => have := k.isLt; simp only [Reg.offset]; omega
  | key k => have := k.isLt; simp only [Reg.offset]; omega
  | _ => decide

theorem Reg.offset_injective : Function.Injective Reg.offset := by
  intro r q h
  have ht : Except.ok (ε := Response) r = .ok q := by rw [← accessTarget_offset r, h, accessTarget_offset q]
  injection ht

/-- Every aligned offset of the window is a register's (10_state.md R33, R44). -/
theorem exists_offset_eq {off : Nat} (hlt : off < 0x80) (hal : off % 4 = 0) : ∃ r : Reg, r.offset = off :=
  ⟨Reg.ofIndex (off / 4), (Reg.offset_ofIndex (by omega)).trans (by omega)⟩

theorem accessTarget_outside {off : Nat} (h : 0x80 ≤ off) (n : Nat) : accessTarget off n = .error (.notReached off) :=
  if_pos h

theorem memRead_reg {off n : Nat} {r : Reg} (h : accessTarget off n = .ok r) (mk : Word → Response) (s : State) :
    memRead off n mk s = answerRead r mk s := by rw [memRead, h]

theorem memWrite_reg {off n : Nat} {r : Reg} (h : accessTarget off n = .ok r) (v : Word) (s : State) :
    memWrite off n v s = writeReg r v (respond (.written off) s) := by rw [memWrite, h]

theorem memWrite_outside {off : Nat} (h : 0x80 ≤ off) (n : Nat) (v : Word) (s : State) :
    memWrite off n v s = .next (respond (.notReached off) s) := by rw [memWrite, accessTarget_outside h]

/-- A read is answered with the register's read value (20_memory.md R56). -/
theorem answerRead_obs (r : Reg) (mk : Word → Response) (s : State) :
    (answerRead r mk s).env.obs = mk (readValue r s) :: s.env.obs := by
  unfold answerRead advanceDraw
  split <;> rfl

/-- Settles O20: registers and the aligned offsets of the window correspond one to one, and outside it the bus answers
alone. -/
theorem registerMapIsTotal : Obligations.RegisterMapIsTotal := by
  refine ⟨fun r => by cases r <;> rfl, ?_, fun off r mk v s h => ?_, fun r => ?_, fun off hlt hal => ?_,
    fun off n v mk s h => ?_⟩
  · exact ⟨accessTarget_offset .id, accessTarget_offset .cmd, accessTarget_offset .status, accessTarget_offset .err,
      accessTarget_offset .ctrLo, accessTarget_offset .ctrHi, accessTarget_offset .toff, accessTarget_offset .tbin,
      accessTarget_offset .code, fun k => accessTarget_offset (.digest k), fun k => accessTarget_offset (.reserved k),
      fun k => accessTarget_offset (.key k)⟩
  · rw [memRead_reg h]
    exact ⟨answerRead_obs r mk s, _, rfl, memWrite_reg h v s⟩
  · obtain ⟨hal, hlt⟩ := r.offset_aligned
    exact ⟨hal, hlt, accessTarget_offset r⟩
  · obtain ⟨r, hr⟩ := exists_offset_eq hlt hal
    exact ⟨r, hr, fun q hq => Reg.offset_injective (hq.trans hr.symm)⟩
  · exact ⟨memRead_sameBlock off n mk s, _, memWrite_outside h n v s, rfl⟩

/-! What a write does -/

/-- A write that the register ignores changes no element (20_memory.md R57). -/
theorem memWrite_ignored {r : Reg} {v : Word} (hr : ∀ u, writeReg r v u = .next u) (s : State) :
    ∃ t, memWrite r.offset 4 v s = .next t ∧ s.SameBlock t :=
  ⟨_, (memWrite_reg (accessTarget_offset r) v s).trans (hr _), rfl⟩

/-- A guarded write is the register's own update `f` while idle (20_memory.md R57). -/
theorem memWrite_idle {r : Reg} {v : Word} {f : State → State} (hr : ∀ u, writeReg r v u = .next (guardedWrite f u))
    {s : State} (hb : s.busy = false) :
    memWrite r.offset 4 v s = .next (f (respond (.written r.offset) s)) := by
  rw [memWrite_reg (accessTarget_offset r), hr, guardedWrite, respond_busy, hb]
  rfl

/-- A guarded write is discarded with BUSY_VIOLATION while busy (20_memory.md R66). -/
theorem memWrite_busy {r : Reg} {v : Word} {f : State → State} (hr : ∀ u, writeReg r v u = .next (guardedWrite f u))
    {s : State} (hb : s.busy = true) :
    memWrite r.offset 4 v s = .next (raiseErr .busyViolation (respond (.written r.offset) s)) := by
  rw [memWrite_reg (accessTarget_offset r), hr, guardedWrite, respond_busy, hb]
  rfl

/-- Both cases of a guarded write in the form the statements give them. -/
theorem memWrite_guarded {r : Reg} {v : Word} {f : State → State} (hr : ∀ u, writeReg r v u = .next (guardedWrite f u))
    {s : State} {P : State → Prop} (hidle : P (f (respond (.written r.offset) s))) :
    ∃ t, memWrite r.offset 4 v s = .next t ∧
      if s.busy = true then ({ s with err := s.err ||| 0x10#6 } : State).SameBlock t else P t := by
  by_cases hb : s.busy = true
  · refine ⟨_, memWrite_busy hr hb, ?_⟩
    rw [if_pos hb]
    rfl
  · refine ⟨_, memWrite_idle hr (Bool.eq_false_of_not_eq_true hb), ?_⟩
    rw [if_neg hb]
    exact hidle

/-! STATUS -/

/-- The fields of STATUS side by side, each gap a reserved 0 (10_state.md R36). -/
theorem statusWord_eq_fields (s : State) :
    statusWord s = 0#9 ++ s.acc ++ 0#1 ++ s.len ++ 0#1 ++ s.bits ++ 0#1 ++ s.kstate.toBits ++ BitVec.ofBool s.busy := by
  apply BitVec.eq_of_getLsbD_eq
  intro i hi
  simp only [statusWord, BitVec.getLsbD_or, BitVec.getLsbD_shiftLeft, BitVec.getLsbD_setWidth, BitVec.getLsbD_append,
    BitVec.getLsbD_ofBool, BitVec.getLsbD_zero, hi]
  grind

/-- Where each field stands (10_state.md R36). -/
theorem statusWord_fields (s : State) :
    (statusWord s).extractLsb' 1 2 = s.kstate.toBits ∧ (statusWord s).extractLsb' 4 3 = s.bits ∧
    (statusWord s).extractLsb' 8 7 = s.len ∧ (statusWord s).extractLsb' 16 7 = s.acc ∧
    (statusWord s).extractLsb' 23 9 = 0 := by
  rw [statusWord_eq_fields]
  simp (disch := omega) only [BitVec.extractLsb'_append_eq_of_le, BitVec.extractLsb'_append_eq_of_add_le]
  simp

/-- Bit 0 is BUSY, and the reserved bits between the fields read 0 (10_state.md R36). -/
theorem statusWord_singleBits (s : State) :
    (statusWord s).getLsbD 0 = s.busy ∧ (statusWord s).getLsbD 3 = false ∧ (statusWord s).getLsbD 7 = false ∧
    (statusWord s).getLsbD 15 = false := by
  rw [statusWord_eq_fields]
  simp only [BitVec.getLsbD_append]
  simp

theorem statusWord_reset {s : State} (h : s.BlockIsReset) : statusWord s = 0 := by
  simp [statusWord, h.acc, h.len, h.bits, h.kstate, h.busy, KState.toBits]

/-- Settles O25, field by field. -/
theorem statusFields : Obligations.StatusFields := by
  intro s
  obtain ⟨hkstate, hbits, hlen, hacc, hhigh⟩ := statusWord_fields s
  obtain ⟨hbusy, h3, h7, h15⟩ := statusWord_singleBits s
  refine ⟨hbusy, ?_, hbits, hlen, hacc, h3, h7, h15, hhigh, fun hrange hin => ?_, statusWord_reset,
    fun w => memWrite_ignored (r := .status) (fun _ => rfl) s⟩
  · simp only [regValue, hkstate]
    cases s.kstate <;> rfl
  · simp only [regValue, hlen, hacc, hbits]
    exact ⟨hrange, hin⟩

/-! The registers no write changes, and CMD -/

/-- While idle a read is exact (20_memory.md R56). -/
theorem readValue_idle {s : State} (hb : s.busy = false) (r : Reg) : readValue r s = regValue r s := by
  simp [readValue, unspecifiedBits, hb]

/-- A register that presents no element of any write set reads exactly, busy or not (20_memory.md R65). -/
theorem readValue_undrawn {r : Reg} (hr : ∀ c, busyMask c r = 0) (s : State) : readValue r s = regValue r s := by
  have hu : unspecifiedBits r s = 0 := by
    unfold unspecifiedBits
    split
    · rw [drawnBits_eq_busyMask, hr]
    · rfl
  rw [readValue, if_pos hu]

/-- The bits of a register above an element it presents zero-extended read 0. -/
theorem zeroExtended_high {w : Nat} (x : BitVec w) (len : Nat) : (x.setWidth 32).extractLsb' w len = 0 := by
  apply BitVec.eq_of_getLsbD_eq
  intro i hi
  simp [BitVec.getLsbD_of_ge]

/-- ID, CMD and the reserved offsets read their constants in every state, busy or not (10_state.md R34, R35, R44). -/
theorem readValue_constants (s : State) :
    readValue .id s = 0x544F5450 ∧ readValue .cmd s = 0 ∧ ∀ k, readValue (.reserved k) s = 0 := by
  refine ⟨readValue_undrawn ?_ s, readValue_undrawn ?_ s, fun k => readValue_undrawn ?_ s⟩ <;>
    · intro c
      cases c <;> rfl

/-- The reserved offsets of the window are two (10_state.md R44). -/
theorem accessTarget_reserved_iff {off : Nat} (hlt : off < 0x80) (hal : off % 4 = 0) :
    (∃ k, accessTarget off 4 = .ok (.reserved k)) ↔ off = 0x38 ∨ off = 0x3C := by
  constructor
  · rintro ⟨k, hk⟩
    obtain ⟨rfl, -⟩ := offset_of_accessTarget hk
    have := k.isLt
    simp only [Reg.offset]
    omega
  · rintro (rfl | rfl)
    · exact ⟨0, rfl⟩
    · exact ⟨1, rfl⟩

theorem code_le_of_codeOfBin {s : State} (h : s.codeOfBin) : s.code.toNat ≤ 999999 := by
  rw [h]
  omega

/-- Settles O26: reads are exact where no write set reaches, and each of these registers but CMD ignores its write. -/
theorem readOnlyRegisters : Obligations.ReadOnlyRegisters := by
  refine ⟨readValue_constants, fun mk s => memRead_sameBlock _ _ mk s,
    fun v s => ⟨_, rfl, memWrite_reg (accessTarget_offset .cmd) v s⟩, fun off => accessTarget_reserved_iff,
    fun s hb => ?_, fun off v s hoff => ?_⟩
  · simp only [readValue_idle hb, regValue]
    have hcode : (s.code.setWidth 32).toNat = s.code.toNat := BitVec.toNat_setWidth_of_le (by decide)
    exact ⟨BitVec.toNat_setWidth_of_le (by decide), zeroExtended_high _ _,
      BitVec.toNat_setWidth_of_le (by decide), by simp,
      hcode, zeroExtended_high _ _, fun h => hcode.trans_le (code_le_of_codeOfBin h)⟩
  · simp only [List.mem_cons, List.not_mem_nil, or_false] at hoff
    rcases hoff with rfl | rfl | rfl | rfl | rfl | rfl
    · exact memWrite_ignored (r := .id) (fun _ => rfl) s
    · exact memWrite_ignored (r := .toff) (fun _ => rfl) s
    · exact memWrite_ignored (r := .tbin) (fun _ => rfl) s
    · exact memWrite_ignored (r := .code) (fun _ => rfl) s
    · exact memWrite_ignored (r := .reserved 0) (fun _ => rfl) s
    · exact memWrite_ignored (r := .reserved 1) (fun _ => rfl) s

/-! ERR -/

theorem getLsbD_clearErr (v : Word) (s : State) {n : Nat} (hn : n < 6) :
    (clearErr v s).err.getLsbD n = (s.err.getLsbD n && !v.getLsbD n) := by simp [hn]

/-- Settles O27: the idle write of ERR is `clearErr`. -/
theorem errWriteClearsOnes : Obligations.ErrWriteClearsOnes := by
  intro v s hb
  refine ⟨_, memWrite_idle (r := .err) (fun _ => rfl) hb, fun n hn => getLsbD_clearErr v _ hn, rfl, ?_,
    zeroExtended_high _ _⟩
  rw [regValue, BitVec.extractLsb'_setWidth_of_le (by decide), BitVec.extractLsb'_eq_self]

/-! The counter -/

/-- Settles O28: each guarded write appends the new half to the kept one. -/
theorem counterHalves : Obligations.CounterHalves := by
  intro v s
  refine ⟨?_, memWrite_guarded (r := .ctrLo) (fun _ => rfl) ⟨rfl, ?_, ?_⟩,
    memWrite_guarded (r := .ctrHi) (fun _ => rfl) ⟨rfl, ?_, ?_⟩⟩
  · simp only [regValue, BitVec.extractLsb'_toNat]
    have := s.ctr.isLt
    omega
  · exact BitVec.extractLsb'_append_eq_right
  · exact BitVec.extractLsb'_append_eq_left
  · exact BitVec.extractLsb'_append_eq_left
  · exact BitVec.extractLsb'_append_eq_right

/-! DIGESTk and KEYk -/

theorem be32_wordByte (w : Word) : be32 (wordByte w 0) (wordByte w 1) (wordByte w 2) (wordByte w 3) = w := by
  simp only [be32, wordByte]
  rw [BitVec.extractLsb'_append_extractLsb'_eq_extractLsb' (by decide),
    BitVec.extractLsb'_append_extractLsb'_eq_extractLsb' (by decide),
    BitVec.extractLsb'_append_extractLsb'_eq_extractLsb' (by decide)]
  exact BitVec.extractLsb'_eq_self

/-- The bytes of a packed word, the first in bits 31:24 (00_scope.md R14). -/
theorem be32_bytes (a b c d : Byte) :
    (be32 a b c d).extractLsb' 24 8 = a ∧ (be32 a b c d).extractLsb' 16 8 = b ∧
    (be32 a b c d).extractLsb' 8 8 = c ∧ (be32 a b c d).extractLsb' 0 8 = d := by
  simp (disch := omega) only [be32, BitVec.extractLsb'_append_eq_of_le, BitVec.extractLsb'_append_eq_of_add_le]
  simp

/-- A word packed from a vector is made of four of its bytes. -/
theorem packWord_toList {n : Nat} (x : Vector Byte n) (k : Nat) (h : 4 * k + 3 < n) :
    packWord x.toList k = be32 x[4 * k] x[4 * k + 1] x[4 * k + 2] x[4 * k + 3] := by
  simp [packWord, List.getD_eq_getElem?_getD, show 4 * k < n by omega, show 4 * k + 1 < n by omega,
    show 4 * k + 2 < n by omega, h]

theorem packWord_bytes {n : Nat} (x : Vector Byte n) (k : Nat) (h : 4 * k + 3 < n) :
    (packWord x.toList k).extractLsb' 24 8 = x[4 * k] ∧ (packWord x.toList k).extractLsb' 16 8 = x[4 * k + 1] ∧
    (packWord x.toList k).extractLsb' 8 8 = x[4 * k + 2] ∧ (packWord x.toList k).extractLsb' 0 8 = x[4 * k + 3] := by
  rw [packWord_toList x k h]
  exact be32_bytes _ _ _ _

/-- Byte j of a word packed from a vector, by its number (10_state.md R43). -/
theorem packWord_byte {n : Nat} (x : Vector Byte n) (k : Nat) (h : 4 * k + 3 < n) (j : Fin 4) :
    (packWord x.toList k).extractLsb' (24 - 8 * j.val) 8 = x[4 * k + j.val] := by
  obtain ⟨h0, h1, h2, h3⟩ := packWord_bytes x k h
  match j with
  | 0 => exact h0
  | 1 => exact h1
  | 2 => exact h2
  | 3 => exact h3

/-- Settles O30: each byte of KEYk is its byte of the key store, which is 0 from LEN on by I3. -/
theorem keyRegisters : Obligations.KeyRegisters := by
  intro k s hz
  have hbyte := packWord_byte s.secret k.val (by omega)
  exact ⟨hbyte, fun j hj => (hbyte j).trans (hz ⟨4 * k.val + j.val, by omega⟩ hj),
    fun v => memWrite_ignored (r := .key k) (fun _ => rfl) s⟩

theorem regValue_setDigestWord_same (k : Fin 5) (v : Word) (s : State) :
    regValue (.digest k) (setDigestWord k v s) = v := by
  rw [regValue, packWord_toList _ _ (by omega)]
  simp [setDigestWord, be32_wordByte]

theorem regValue_setDigestWord_other {j k : Fin 5} (hjk : j ≠ k) (v : Word) (s : State) :
    regValue (.digest j) (setDigestWord k v s) = regValue (.digest j) s := by
  have hne : j.val ≠ k.val := fun h => hjk (Fin.ext h)
  rw [regValue, regValue, packWord_toList _ _ (by omega), packWord_toList _ _ (by omega)]
  simp (disch := omega) [setDigestWord, Vector.getElem_set_ne]

/-- The five words of a SHA-1 state are the words of its byte string (41_hmac_sha1.md R136). -/
theorem packWord_digestBytes (h : Hash) :
    packWord (digestBytes h) 0 = h.h0 ∧ packWord (digestBytes h) 1 = h.h1 ∧ packWord (digestBytes h) 2 = h.h2 ∧
    packWord (digestBytes h) 3 = h.h3 ∧ packWord (digestBytes h) 4 = h.h4 := by
  simp [packWord, digestBytes, wordBytes, be32_wordByte]

/-- The digest of the key and the counter is the byte string of a SHA-1 state (41_hmac_sha1.md R136, R138). -/
theorem exists_stateHmac_eq_digestBytes (s : State) : ∃ h, stateHmac s = digestBytes h := ⟨_, rfl⟩

/-- After HMAC, DIGESTk packs bytes 4k to 4k+3 of the digest (41_hmac_sha1.md R140). -/
theorem regValue_digest_hmacBody (k : Fin 5) (s : State) :
    regValue (.digest k) (hmacBody s) = packWord (stateHmac s) k.val := by
  rw [regValue, hmacBody_digest, digestOf_toList (by simp [stateHmac])]

/-- Settles O29: a register packs four bytes of the vector, its write sets those four, and the digest HMAC leaves is the
byte string of a SHA-1 state. -/
theorem digestRegisters : Obligations.DigestRegisters := by
  refine ⟨fun k s => packWord_bytes s.digest k.val (by omega), fun k v s => ?_, fun s hk => ?_⟩
  · exact memWrite_guarded (r := .digest k) (fun _ => rfl)
      ⟨rfl, regValue_setDigestWord_same k v _, fun j hj => regValue_setDigestWord_other hj v _⟩
  · obtain ⟨h, hh⟩ := exists_stateHmac_eq_digestBytes s
    refine ⟨hmacBody s, h, if_neg (not_not.2 hk), hh, ?_⟩
    simp only [regValue_digest_hmacBody, hh]
    exact packWord_digestBytes h

end Sys2Proof.Machine
end

section
/-! PROOFS. The host's accesses (20_memory.md R51 to R66): where an address or an illegal access goes, what a read answers
while idle and while busy, and what a write does while busy. -/

namespace Sys2Proof.Machine

/-! Addresses -/

/-- At an address below the window or above it no write reaches the block (20_memory.md R51). -/
theorem busWrite_outside {addr : Nat} (h : addr < Config.base ∨ Config.base + 0x7F < addr) (n : Nat) (v : Word)
    (s : State) : ∃ t, busWrite addr n v s = .next t ∧ s.SameBlock t := by
  unfold busWrite
  rcases windowOffset_cases addr with ⟨off, rfl, ho⟩ | ⟨-, ho⟩ <;> rw [ho]
  · exact ⟨_, memWrite_outside (by omega) n v s, rfl⟩
  · exact ⟨_, rfl, rfl⟩

/-- Settles O58: an address is its offset from BASE, and has none below the window. -/
theorem addressesAreRelativeToBase : Obligations.AddressesAreRelativeToBase := by
  refine ⟨Nat.mul_mod_right _ _, fun off n v s => ⟨?_, ?_⟩, fun addr n v s h => ⟨?_, busWrite_outside h n v s⟩⟩
  · simp only [performOp, busRead, windowOffset_base_add]
  · simp only [performOp, busWrite, windowOffset_base_add]
  · exact ⟨_, rfl, busRead_sameBlock addr n s⟩

/-! Illegal accesses -/

theorem accessTarget_illegal {off n : Nat} (hlt : off < 0x80) (h : ¬ (n = 4 ∧ off % 4 = 0)) :
    accessTarget off n = .error (.busError off) := by
  have hillegal : legalAccess off n = false := by simpa [legalAccess] using h
  rw [accessTarget, if_neg (show ¬ off ≥ Config.windowLen from Nat.not_le.2 hlt), hillegal]
  rfl

/-- Settles O21: an illegal access is answered and goes no further. -/
theorem illegalAccessIsBusError : Obligations.IllegalAccessIsBusError := by
  intro off n v mk s hlt h
  rw [memRead, memWrite, accessTarget_illegal hlt h]
  exact ⟨rfl, rfl⟩

/-! What a read answers -/

/-- A register presents state elements alone, nothing of the environment. -/
theorem regValue_sameBlock {s t : State} (h : s.SameBlock t) (r : Reg) : regValue r t = regValue r s := by
  unfold State.SameBlock at h
  rw [h]
  cases r <;> rfl

/-- Settles O22: a read is answered with the read value, and a block it leaves alone reads the same again. -/
theorem readsHaveNoSideEffect : Obligations.ReadsHaveNoSideEffect := by
  intro r mk s
  have hsame := memRead_sameBlock r.offset 4 mk s
  obtain ⟨-, hops, -⟩ := answerRead_env r mk s
  refine ⟨hsame, ?_, ?_, fun hb => ⟨readValue_idle hb r, ?_⟩⟩
  · rw [memRead_reg (accessTarget_offset r), answerRead_obs]
  · rw [memRead_reg (accessTarget_offset r), hops]
  · have hidle : (memRead r.offset 4 mk s).busy = false := by
      rw [hsame]
      exact hb
    rw [readValue_idle hidle, readValue_idle hb, regValue_sameBlock hsame]

/-! The draw -/

theorem getLsbD_mixBits (mask free exact : Word) {n : Nat} (hn : n < 32) :
    (mixBits mask free exact).getLsbD n = if mask.getLsbD n = true then free.getLsbD n else exact.getLsbD n := by
  simp only [mixBits, BitVec.getLsbD_or, BitVec.getLsbD_and, BitVec.getLsbD_not, hn]
  cases mask.getLsbD n <;> simp

/-- With a command in flight the unspecified bits are those of its row in R64's table. -/
theorem unspecifiedBits_inFlight {s : State} {c : Instr} (hb : s.busy = true) (hp : s.pend = some c) (r : Reg) :
    unspecifiedBits r s = busyMask c r := by
  simp only [unspecifiedBits, hb, hp, drawnBits_eq_busyMask]

/-- A bit of a union of masks is a bit of one of them. -/
theorem getLsbD_foldl_or {α : Type} (f : α → Word) (n : Nat) (l : List α) (z : Word) :
    (l.foldl (fun m x => m ||| f x) z).getLsbD n = true ↔
      z.getLsbD n = true ∨ ∃ x ∈ l, (f x).getLsbD n = true := by
  induction l generalizing z with
  | nil => simp
  | cons x xs ih => simp [ih, or_assoc]

/-- R64's third column is what the elements of its second present (20_memory.md R64). -/
theorem getLsbD_busyMask (c : Instr) (r : Reg) (n : Nat) :
    (busyMask c r).getLsbD n = true ↔ ∃ x ∈ writeSet c, (presentedBits x r).getLsbD n = true := by
  rw [← drawnBits_eq_busyMask, drawnBits, getLsbD_foldl_or]
  simp

/-- Every read made while busy takes the next draw (log 3). -/
theorem answerRead_draws {s : State} (hb : s.busy = true) (r : Reg) (mk : Word → Response) :
    (answerRead r mk s).env.draws = s.env.draws + 1 := by
  simp [answerRead, advanceDraw, hb]

/-! Reserved bits -/

/-- A field that starts at bit `k` of a register, under a mask, is the field under the mask's bits there. -/
theorem field_and {w : Nat} (x : BitVec w) (k : Nat) (m : Word) :
    x.setWidth 32 <<< k &&& m = (x &&& (m >>> k).setWidth w).setWidth 32 <<< k := by
  apply BitVec.eq_of_getLsbD_eq
  intro i hi
  simp only [BitVec.getLsbD_and, BitVec.getLsbD_shiftLeft, BitVec.getLsbD_setWidth, BitVec.getLsbD_ushiftRight]
  by_cases hk : i < k
  · simp [hk]
  · by_cases hw : i - k < w
    · simp [hw, Nat.add_sub_cancel' (Nat.le_of_not_lt hk), Bool.and_assoc]
    · simp [BitVec.getLsbD_of_ge x (i - k) (Nat.le_of_not_lt hw)]

/-- A zero-extended element under a mask is the element under the mask's low bits. -/
theorem setWidth_and {w : Nat} (x : BitVec w) (m : Word) : x.setWidth 32 &&& m = (x &&& m.setWidth w).setWidth 32 :=
  by simpa using field_and x 0 m

theorem setWidth_and_eq_zero {w : Nat} (x : BitVec w) {m : Word} (hm : m.setWidth w = 0) : x.setWidth 32 &&& m = 0 := by
  rw [setWidth_and, hm]
  simp

/-- STATUS under a mask is each of its fields under the mask's bits at its place (10_state.md R36). -/
theorem statusWord_and (s : State) (m : Word) :
    statusWord s &&& m =
      ((s.acc &&& (m >>> 16).setWidth 7).setWidth 32 <<< 16) ||| ((s.len &&& (m >>> 8).setWidth 7).setWidth 32 <<< 8) |||
      ((s.bits &&& (m >>> 4).setWidth 3).setWidth 32 <<< 4) |||
      ((s.kstate.toBits &&& (m >>> 1).setWidth 2).setWidth 32 <<< 1) |||
      (BitVec.ofBool s.busy &&& m.setWidth 1).setWidth 32 := by
  simp only [statusWord, BitVec.and_or_distrib_right, field_and, setWidth_and]

/-- The reserved bits of STATUS read 0 (10_state.md R36). -/
theorem statusWord_reserved (s : State) : statusWord s &&& 0xFF808088 = 0 := by simp [statusWord_and]

/-- No write set reaches a reserved bit (20_memory.md R64). -/
theorem busyMask_reserved (c : Instr) :
    busyMask c .status &&& 0xFF808088 = 0 ∧ busyMask c .err &&& 0xFFFFFFC0 = 0 ∧ busyMask c .toff &&& 0xFFFFFFF0 = 0 ∧
    busyMask c .tbin &&& 0x80000000 = 0 ∧ busyMask c .code &&& 0xFFF00000 = 0 := by
  cases c <;> simp [busyMask]

/-- Bits that read 0 exactly and are not drawn read 0 with a command in flight (20_memory.md R65). -/
theorem readValue_and_eq_zero {r : Reg} {m : Word} {s : State} {c : Instr} (hb : s.busy = true) (hp : s.pend = some c)
    (hexact : regValue r s &&& m = 0) (hmask : busyMask c r &&& m = 0) : readValue r s &&& m = 0 := by
  rw [readValue_eq, unspecifiedBits_inFlight hb hp, mixBits, BitVec.and_or_distrib_right, BitVec.and_assoc,
    BitVec.and_comm _ m, ← BitVec.and_assoc, hexact, BitVec.and_assoc, hmask]
  simp

/-- Settles O23: a read while busy draws by the command's row of R64's table, which leaves BUSY, the reserved bits and
the constant registers out. That each read takes a new word is the model's choice (log 3). -/
theorem busyReadsDrawTheWriteSet : Obligations.BusyReadsDrawTheWriteSet := by
  intro s c r hb hp
  obtain ⟨hstatus, herr, htoff, htbin, hcode⟩ := busyMask_reserved c
  refine ⟨fun n hn => ?_, fun n _ => getLsbD_busyMask c r n, fun mk => ?_, (readValue_busy s).trans hb,
    readValue_and_eq_zero hb hp (statusWord_reserved s) hstatus,
    readValue_and_eq_zero hb hp (setWidth_and_eq_zero s.err (by decide)) herr,
    readValue_and_eq_zero hb hp (setWidth_and_eq_zero s.toff (by decide)) htoff,
    readValue_and_eq_zero hb hp (setWidth_and_eq_zero s.tbin (by decide)) htbin,
    readValue_and_eq_zero hb hp (setWidth_and_eq_zero s.code (by decide)) hcode, readValue_constants s⟩
  · rw [readValue_eq, unspecifiedBits_inFlight hb hp, getLsbD_mixBits _ _ _ hn]
  · rw [memRead_reg (accessTarget_offset r), answerRead_draws hb]

/-! Writes while busy -/

theorem issue_sreset (s : State) : issue 0x0000000F s = .next (blockReset s) := rfl

theorem issue_busy {v : Word} {s : State} (hv : v ≠ 0x0000000F) (hb : s.busy = true) :
    issue v s = .next (raiseErr .busyViolation s) := by
  rw [issue, if_neg (show v ≠ sresetWord from hv), if_pos hb]

/-- Settles O24: register by register, CMD's word apart (20_memory.md R66). -/
theorem busyWritesAreDiscarded : Obligations.BusyWritesAreDiscarded := by
  intro r v s hb
  cases r with
  | cmd =>
    rw [memWrite_reg (accessTarget_offset .cmd), writeReg]
    by_cases hv : v = 0x0000000F
    · subst hv
      exact ⟨_, issue_sreset _, by simpa using blockReset_blockIsReset _⟩
    · exact ⟨_, issue_busy hv hb, by rw [if_neg hv]; rfl⟩
  | err => exact ⟨_, memWrite_busy (r := .err) (fun _ => rfl) hb, rfl⟩
  | ctrLo => exact ⟨_, memWrite_busy (r := .ctrLo) (fun _ => rfl) hb, rfl⟩
  | ctrHi => exact ⟨_, memWrite_busy (r := .ctrHi) (fun _ => rfl) hb, rfl⟩
  | digest k => exact ⟨_, memWrite_busy (r := .digest k) (fun _ => rfl) hb, rfl⟩
  | id | status | toff | tbin | code | reserved _ | key _ =>
    exact ⟨_, memWrite_reg (accessTarget_offset _) v s, rfl⟩

end Sys2Proof.Machine
end

section
/-! PROOFS. The frame of each command (20_memory.md R64): the elements outside its write set, and so the register bits
outside R64's table, are as before. -/

namespace Sys2Proof.Machine

/-! ERR under a mask -/

/-- Raising an error leaves the other bits (60_exceptions.md R200). -/
theorem raiseErr_err_and {e : ErrBit} {m : BitVec 6} (h : e.mask &&& m = 0) (s : State) :
    (raiseErr e s).err &&& m = s.err &&& m := by
  rw [raiseErr_err, BitVec.and_or_distrib_right, h]
  simp

theorem feedSymbol_err_and {m : BitVec 6} (h : ErrBit.bufferOverflow.mask &&& m = 0) (v : BitVec 5) (s : State) :
    (feedSymbol v s).err &&& m = s.err &&& m := by
  rcases feedSymbol_cases v s with ⟨a, k, -, hf⟩ | ⟨a, k, out, -, -, hf⟩ | ⟨a, k, out, -, -, hf⟩ <;> rw [hf]
  · rfl
  · exact raiseErr_err_and h s
  · rfl

/-! The frames -/

theorem b32Char_frame {ch : Byte} {s t : State} (h : exec (.b32Char ch) s = .next t) :
    t = { s with secret := t.secret, len := t.len, acc := t.acc, bits := t.bits, kstate := t.kstate, err := t.err } ∧
    t.err &&& 0x1D#6 = s.err &&& 0x1D#6 := by
  cases exec_effect rfl h with
  | skips _ _ => exact ⟨rfl, rfl⟩
  | feeds _ m _ _ => exact ⟨feedSymbol_frame m s, feedSymbol_err_and (by decide) m s⟩
  | keySealed _ _ _ => exact ⟨rfl, raiseErr_err_and (by decide) s⟩
  | keyNotReady _ hc _ => rcases hc with hc | hc <;> cases hc

theorem b32End_frame {s t : State} (h : exec .b32End s = .next t) :
    t = { s with acc := t.acc, bits := t.bits, kstate := t.kstate, err := t.err } ∧
    t.err &&& 0x1E#6 = s.err &&& 0x1E#6 := by
  cases exec_effect rfl h with
  | staysFailed _ => exact ⟨rfl, rfl⟩
  | fails _ _ => exact ⟨rfl, raiseErr_err_and (by decide) s⟩
  | seals _ _ => exact ⟨rfl, rfl⟩
  | keySealed _ _ _ => exact ⟨rfl, raiseErr_err_and (by decide) s⟩
  | keyNotReady _ hc _ => rcases hc with hc | hc <;> cases hc

theorem hmac_frame {s t : State} (h : exec .hmac s = .next t) :
    t = { s with digest := t.digest, err := t.err } ∧ t.err &&& 0x3B#6 = s.err &&& 0x3B#6 := by
  cases exec_effect rfl h with
  | hashes _ => exact ⟨rfl, rfl⟩
  | keyNotReady _ _ _ => exact ⟨rfl, raiseErr_err_and (by decide) s⟩
  | keySealed _ hc _ => rcases hc with hc | ⟨_, hc⟩ <;> cases hc

theorem totp_frame {s t : State} (h : exec .totp s = .next t) :
    t = { s with digest := t.digest, toff := t.toff, tbin := t.tbin, code := t.code, err := t.err } ∧
    t.err &&& 0x3B#6 = s.err &&& 0x3B#6 := by
  cases exec_effect rfl h with
  | computes _ => exact ⟨rfl, rfl⟩
  | keyNotReady _ _ _ => exact ⟨rfl, raiseErr_err_and (by decide) s⟩
  | keySealed _ hc _ => rcases hc with hc | ⟨_, hc⟩ <;> cases hc

theorem keyclr_frame {s t : State} (h : exec .keyclr s = .next t) :
    t = { s with secret := t.secret, len := t.len, acc := t.acc, bits := t.bits, kstate := t.kstate } := by
  cases h
  rfl

theorem trunc_frame {s t : State} (h : exec .trunc s = .next t) :
    t = { s with toff := t.toff, tbin := t.tbin, code := t.code } := by
  cases h
  rfl

/-- Settles O31: the commands' frames; NOP does nothing. -/
theorem commandsKeepTheirWriteSet : Obligations.CommandsKeepTheirWriteSet :=
  ⟨fun s t h => by cases h; rfl, fun _ _ => keyclr_frame, fun _ _ _ => b32Char_frame, fun _ _ => b32End_frame,
    fun _ _ => hmac_frame, fun _ _ => trunc_frame, fun _ _ => totp_frame⟩

/-! Registers under the complement of a mask -/

/-- ERR under a mask is alike where the elements that the mask leaves are (10_state.md R37). -/
theorem err_undrawn {s t : State} {m : Word} (h : t.err &&& m.setWidth 6 = s.err &&& m.setWidth 6) :
    regValue .err t &&& m = regValue .err s &&& m := by
  rw [regValue, regValue, setWidth_and, setWidth_and, h]

/-- A register whose elements are kept is alike under every mask. -/
theorem undrawn_of_eq {r : Reg} {s t : State} {m : Word} (h : regValue r t = regValue r s) :
    regValue r t &&& m = regValue r s &&& m := by rw [h]

theorem keyclr_undrawn {s t : State} (h : exec .keyclr s = .next t) (r : Reg) :
    regValue r t &&& ~~~(busyMask .keyclr r) = regValue r s &&& ~~~(busyMask .keyclr r) := by
  have hframe := keyclr_frame h
  cases r with
  | key k => simp [busyMask]
  | status => rw [hframe]; simp [regValue, statusWord_and, busyMask]
  | _ => exact undrawn_of_eq (by rw [hframe]; rfl)

theorem b32Char_undrawn {ch : Byte} {s t : State} (h : exec (.b32Char ch) s = .next t) (r : Reg) :
    regValue r t &&& ~~~(busyMask (.b32Char ch) r) = regValue r s &&& ~~~(busyMask (.b32Char ch) r) := by
  obtain ⟨hframe, herr⟩ := b32Char_frame h
  cases r with
  | key k => simp [busyMask]
  | status =>
    rw [show busyMask (.b32Char ch) .status = 0x007F7F76 from rfl, hframe]
    simp [regValue, statusWord_and]
  | err =>
    rw [show busyMask (.b32Char ch) .err = 0x00000022 from rfl]
    exact err_undrawn herr
  | _ => exact undrawn_of_eq (by rw [hframe]; rfl)

theorem b32End_undrawn {s t : State} (h : exec .b32End s = .next t) (r : Reg) :
    regValue r t &&& ~~~(busyMask .b32End r) = regValue r s &&& ~~~(busyMask .b32End r) := by
  obtain ⟨hframe, herr⟩ := b32End_frame h
  cases r with
  | status => rw [hframe]; simp [regValue, statusWord_and, busyMask]
  | err => exact err_undrawn herr
  | _ => exact undrawn_of_eq (by rw [hframe]; rfl)

theorem hmac_undrawn {s t : State} (h : exec .hmac s = .next t) (r : Reg) :
    regValue r t &&& ~~~(busyMask .hmac r) = regValue r s &&& ~~~(busyMask .hmac r) := by
  obtain ⟨hframe, herr⟩ := hmac_frame h
  cases r with
  | digest k => simp [busyMask]
  | err => exact err_undrawn herr
  | _ => exact undrawn_of_eq (by rw [hframe]; rfl)

theorem trunc_undrawn {s t : State} (h : exec .trunc s = .next t) (r : Reg) :
    regValue r t &&& ~~~(busyMask .trunc r) = regValue r s &&& ~~~(busyMask .trunc r) := by
  have hframe := trunc_frame h
  cases r with
  | toff | tbin | code => simp [regValue, setWidth_and, busyMask]
  | _ => exact undrawn_of_eq (by rw [hframe]; rfl)

theorem totp_undrawn {s t : State} (h : exec .totp s = .next t) (r : Reg) :
    regValue r t &&& ~~~(busyMask .totp r) = regValue r s &&& ~~~(busyMask .totp r) := by
  obtain ⟨hframe, herr⟩ := totp_frame h
  cases r with
  | digest k => simp [busyMask]
  | toff | tbin | code => simp [regValue, setWidth_and, busyMask]
  | err => exact err_undrawn herr
  | _ => exact undrawn_of_eq (by rw [hframe]; rfl)

/-- Settles O32, command by command: a register is unchanged by the frame, or is wholly drawn, or its other bits present
kept elements. -/
theorem undrawnBitsAreStable : Obligations.UndrawnBitsAreStable := by
  intro c s t r hc h
  cases c with
  | nop | sreset => cases hc
  | keyclr => exact keyclr_undrawn h r
  | b32Char ch => exact b32Char_undrawn h r
  | b32End => exact b32End_undrawn h r
  | hmac => exact hmac_undrawn h r
  | trunc => exact trunc_undrawn h r
  | totp => exact totp_undrawn h r

end Sys2Proof.Machine
end

section
/-! PROOFS. The two agents' turns (20_memory.md R62, R63, R67): no step stops, a step is the engine's command or the host's
next move, and commands issued with CMDW take effect in order (30_encoding.md R89). -/

namespace Sys2Proof.Machine

/-! No step stops -/

theorem complete_of_pend {s t : State} {c : Instr} (hp : s.pend = some c) (h : exec c s = .next t) :
    complete s = .next (retire t) := by
  rw [complete, hp]
  simp only [h]

theorem writeReg_next (r : Reg) (v : Word) (s : State) : ∃ t, writeReg r v s = .next t := by
  cases r with
  | cmd => exact issue_next v s
  | _ => exact ⟨_, rfl⟩

theorem memWrite_next (off n : Nat) (v : Word) (s : State) : ∃ t, memWrite off n v s = .next t := by
  unfold memWrite
  split
  · exact ⟨_, rfl⟩
  · exact writeReg_next _ v _

theorem busWrite_next (addr n : Nat) (v : Word) (s : State) : ∃ t, busWrite addr n v s = .next t := by
  unfold busWrite
  split
  · exact ⟨_, rfl⟩
  · exact memWrite_next _ n v s

theorem performOp_next (op : HostOp) (s : State) : ∃ t, performOp op s = .next t := by
  cases op with
  | write off n v => exact memWrite_next off n v s
  | writeAt addr n v => exact busWrite_next addr n v s
  | _ => exact ⟨_, rfl⟩

/-- With no move left a step lets time pass (log 13). -/
theorem step_noMove {s : State} (hm : engineMoves s = false) (ho : s.env.hostOps = []) :
    step s = .next (passTime [] s) := by
  simp [step, hm, hostTurn, ho]

/-- On the host's turn a step is its next move (20_memory.md R67). -/
theorem step_hostMove {s : State} {op : HostOp} {rest : List HostOp} (hm : engineMoves s = false)
    (ho : s.env.hostOps = op :: rest) : step s = performOp op (passTime rest s) := by
  simp [step, hm, hostTurn, ho]

theorem engineMoves_iff (s : State) : engineMoves s = true ↔ s.busy = true ∧ s.env.wait = 0 := by
  simp [engineMoves]

theorem engineMoves_idle {s : State} (hb : s.busy = false) : engineMoves s = false := by simp [engineMoves, hb]

/-- With a command in flight `complete` carries it out and leaves the block idle (20_memory.md R62). -/
theorem complete_next {s : State} (hs : s.busyIffPend) (hb : s.busy = true) :
    ∃ t, complete s = .next t ∧ t.busy = false ∧ t.pend = none := by
  obtain ⟨c, hc⟩ := Option.ne_none_iff_exists'.1 (hs.1 hb)
  obtain ⟨t, ht⟩ := exec_next c s
  exact ⟨_, complete_of_pend hc ht, rfl, rfl⟩

/-- Settles O6: BUSY = 1 means a command in flight (I7), every command answers a next state, and so does every move of the
host. -/
theorem noStepStops : Obligations.NoStepStops := by
  intro s hs
  refine ⟨complete_next hs.busyIffPend, ?_⟩
  cases hm : engineMoves s with
  | true =>
    obtain ⟨t, ht, -⟩ := complete_next hs.busyIffPend ((engineMoves_iff s).1 hm).1
    exact ⟨t, by rw [step, hm]; exact ht⟩
  | false =>
    cases ho : s.env.hostOps with
    | nil => exact ⟨_, step_noMove hm ho⟩
    | cons op rest =>
      obtain ⟨t, ht⟩ := performOp_next op (passTime rest s)
      exact ⟨t, (step_hostMove hm ho).trans ht⟩

/-! A step runs the command -/

/-- While idle a word that decodes is issued as its command; SRESET's is performed either way (20_memory.md R63). -/
theorem issue_idle {v : Word} {c : Instr} {s : State} (hb : s.busy = false) (hd : decode v = .ok c) :
    issue v s = issueDecoded c s := by
  by_cases hv : v = sresetWord
  · subst hv
    cases hd
    rfl
  · simp [issue, hv, hb, hd]

/-- While idle the host's write of a command word issues its command. -/
theorem step_writeCmd {s : State} {v : Word} {c : Instr} {rest : List HostOp} (hb : s.busy = false)
    (ho : s.env.hostOps = .write 0x04 4 v :: rest) (hd : decode v = .ok c) :
    step s = issueDecoded c (respond (.written 0x04) (passTime rest s)) :=
  calc step s = memWrite 0x04 4 v (passTime rest s) := step_hostMove (engineMoves_idle hb) ho
    _ = issue v (respond (.written 0x04) (passTime rest s)) := memWrite_reg (accessTarget_offset .cmd) v _
    _ = _ := issue_idle hb hd

theorem decodeTableWord_eq_some {n w : Nat} {c : Instr} (h : decodeTableWord n w = some c) :
    decode (tableWord n w) = .ok c := by
  unfold decodeTableWord at h
  split at h
  · rename_i i hi
    cases h
    exact hi
  · cases h

/-- A command that goes through PEND is placed as accepted (log 11). -/
theorem withFetchWord_inFlight {s : State} {n w : Nat} {c : Instr} (hd : decodeTableWord n w = some c)
    (hc : c.mayBeInFlight = true) :
    s.withFetchWord n w = { s with pend := some c, busy := true, env := { s.env with wait := 0 } } := by
  simp [State.withFetchWord, placeCommand, decodeTableWord_eq_some hd, hc]

/-- NOP and SRESET are placed as the host's next write (log 11). -/
theorem withFetchWord_immediate {s : State} {n w : Nat} {c : Instr} (hd : decodeTableWord n w = some c)
    (hc : c.mayBeInFlight = false) :
    s.withFetchWord n w = pushOp (.write Reg.cmd.offset 4 (tableWord n w)) (retire s) := by
  simp [State.withFetchWord, placeCommand, decodeTableWord_eq_some hd, hc]

theorem issueDecoded_immediate {c : Instr} (hc : c.mayBeInFlight = false) (s : State) :
    issueDecoded c s = exec c s := by
  simp [issueDecoded, hc]

/-- Settles O5. That the host is a list of moves (log 1, log 13), the latency's count (log 2), the environment after a reset
(log 8) and the placement (log 11) are the model's own. -/
theorem stepRunsTheCommand : Obligations.StepRunsTheCommand := by
  refine ⟨fun s t c hb hw hp h => step_enginesTurn hb hp hw h, fun s v c rest hb ho hd => step_writeCmd hb ho hd,
    fun s t w c hd hc h => ?_, fun s w c hd hc => ?_, fun s t h => ?_, engineMoves_iff,
    fun s op rest hm ho => ?_, fun s hm ho => ?_⟩
  · rw [withFetchWord_inFlight hd hc] at h ⊢
    exact step_enginesTurn rfl rfl rfl h
  · rw [withFetchWord_immediate hd hc, step_writeCmd rfl rfl (decodeTableWord_eq_some hd), issueDecoded_immediate hc]
    rfl
  · rcases h with h | h <;> cases h <;> rfl
  · have hstep := step_hostMove hm ho
    refine ⟨hstep, ?_, ?_, ?_, ?_⟩
    · rintro off n v rfl
      exact hstep
    · rintro off n rfl
      exact hstep
    · rintro rfl
      exact hstep
    · rintro rfl
      exact ⟨_, hstep, blockReset_blockIsReset _⟩
  · rw [step_noMove hm ho, ← ho]
    rfl

/-! The encoding of a command -/

/-- DATA beside OP, with RSVD zero (30_encoding.md R81). -/
theorem data_or_op (d op : Byte) : (d.setWidth 32 <<< 8) ||| op.setWidth 32 = 0#16 ++ d ++ op := by
  apply BitVec.eq_of_getLsbD_eq
  intro i hi
  simp only [BitVec.getLsbD_or, BitVec.getLsbD_shiftLeft, BitVec.getLsbD_setWidth, BitVec.getLsbD_append,
    BitVec.getLsbD_zero, hi]
  grind

theorem encode_b32Char (ch : Byte) : encode (.b32Char ch) = 0#16 ++ ch ++ 0x02#8 := data_or_op ch 0x02

/-- Decoding the encoding of a command gives it back (30_encoding.md R84). -/
theorem decode_encode (c : Instr) : decode (encode c) = .ok c := by
  cases c with
  | b32Char ch =>
    have hr : rsvdField (encode (.b32Char ch)) = 0 := by
      rw [encode_b32Char, rsvdField, BitVec.append_assoc]
      exact BitVec.extractLsb'_append_eq_left
    have hd : dataField (encode (.b32Char ch)) = ch := by
      rw [encode_b32Char, dataField, BitVec.extractLsb'_append_eq_of_le (by decide)]
      exact BitVec.extractLsb'_append_eq_right
    have ho : opField (encode (.b32Char ch)) = 0x02 := by
      rw [encode_b32Char, opField]
      exact BitVec.extractLsb'_append_eq_right
    simp [decode, hr, ho, hd]
  | _ => rfl

/-! Runs -/

/-- Some run of the machine leads from one state to the other. -/
def State.Reaches (s u : State) : Prop := ∃ n, core.run n s = .next u

theorem State.Reaches.refl (s : State) : s.Reaches s := ⟨0, run_zero s⟩

theorem State.Reaches.of_step {s t : State} (h : step s = .next t) : s.Reaches t := ⟨1, (run_succ h).trans (run_zero t)⟩

theorem State.Reaches.trans {s t u : State} (hst : s.Reaches t) (htu : t.Reaches u) : s.Reaches u := by
  obtain ⟨n, hn⟩ := hst
  obtain ⟨m, hm⟩ := htu
  exact ⟨n + m, (run_add hn).trans hm⟩

/-! Commands and the environment -/

/-- A command in flight leaves the environment, BUSY and PEND. -/
theorem exec_inFlight_frame {c : Instr} (hc : c.mayBeInFlight = true) {s t : State} (h : exec c s = .next t) :
    t = { t with busy := s.busy, pend := s.pend, env := s.env } := by
  have heq := exec_inFlight_congr hc h s.env s.busy s.pend
  rw [h] at heq
  injection heq

theorem State.SameBlock.trans {s t u : State} (hst : s.SameBlock t) (htu : t.SameBlock u) : s.SameBlock u := by
  unfold State.SameBlock at *
  rw [htu, hst]

/-- A command does the same to the block in every environment. -/
theorem exec_sameBlock {c : Instr} {s s' t : State} (hs : s.SameBlock s') (h : exec c s = .next t) :
    ∃ t', exec c s' = .next t' ∧ t.SameBlock t' := by
  unfold State.SameBlock at *
  rw [hs]
  cases hc : c.mayBeInFlight with
  | true =>
    refine ⟨_, exec_inFlight_congr hc h s'.env s.busy s.pend, ?_⟩
    rw [exec_inFlight_frame hc h]
  | false =>
    cases c with
    | nop | sreset => cases h; exact ⟨_, rfl, rfl⟩
    | _ => cases hc

theorem execAll_cons_eq_some {c : Instr} {cs : List Instr} {s t : State} (h : execAll (c :: cs) s = some t) :
    ∃ u, exec c s = .next u ∧ execAll cs u = some t := by
  obtain ⟨u, hu⟩ := exec_next c s
  rw [execAll, hu] at h
  exact ⟨u, hu, h⟩

theorem execAll_sameBlock {cs : List Instr} {s s' t : State} (hs : s.SameBlock s') (h : execAll cs s = some t) :
    ∃ t', execAll cs s' = some t' ∧ t.SameBlock t' := by
  induction cs generalizing s s' with
  | nil => cases h; exact ⟨s', rfl, hs⟩
  | cons c cs ih =>
    obtain ⟨u, hu, hrest⟩ := execAll_cons_eq_some h
    obtain ⟨u', hu', hsame⟩ := exec_sameBlock hs hu
    obtain ⟨t', ht', htsame⟩ := ih hsame hrest
    exact ⟨t', by rw [execAll, hu']; exact ht', htsame⟩

/-! POLL -/

/-- One read of POLL: it is made again while BUSY = 1 (30_encoding.md R89; log 13). -/
theorem step_poll {s : State} {rest : List HostOp} (hm : engineMoves s = false) (ho : s.env.hostOps = .poll :: rest) :
    ∃ t, step s = .next t ∧ s.SameBlock t ∧ t.env.wait = s.env.wait - 1 ∧
      t.env.hostOps = if s.busy = true then .poll :: rest else rest := by
  obtain ⟨hwait, hops, -⟩ := answerRead_env .status (.data Reg.status.offset) (passTime rest s)
  have hsame : s.SameBlock (pollOnce (passTime rest s)) :=
    State.SameBlock.trans (t := passTime rest s) rfl (pollOnce_sameBlock _)
  refine ⟨_, step_hostMove hm ho, hsame, ?_⟩
  cases hb : s.busy with
  | true =>
    rw [pollOnce, passTime_busy, hb, if_pos rfl, pushOp_env, hops]
    exact ⟨hwait, rfl⟩
  | false =>
    rw [pollOnce, passTime_busy, hb, if_neg (by decide)]
    exact ⟨hwait, hops⟩

/-- A host that polls a command in flight comes to the engine's turn, by induction on the latency that is left. -/
theorem reaches_enginesTurn {s : State} {rest : List HostOp} (hb : s.busy = true)
    (ho : s.env.hostOps = .poll :: rest) :
    ∃ u, s.Reaches u ∧ s.SameBlock u ∧ u.env.wait = 0 ∧ u.env.hostOps = .poll :: rest := by
  generalize hw : s.env.wait = n
  induction n generalizing s with
  | zero => exact ⟨s, .refl s, rfl, hw, ho⟩
  | succ n ih =>
    have hm : engineMoves s = false := by simp [engineMoves, hw]
    obtain ⟨t, hstep, hsame, hwait, hops⟩ := step_poll hm ho
    rw [if_pos hb] at hops
    have hbt : t.busy = true := by rw [hsame]; exact hb
    obtain ⟨u, hreach, hsame', hdone, hops'⟩ := ih hbt hops (by rw [hwait, hw]; rfl)
    exact ⟨u, (State.Reaches.of_step hstep).trans hreach, hsame.trans hsame', hdone, hops'⟩

/-! CMDW -/

/-- NOP and SRESET leave a quiet block quiet and the host's moves as they are. -/
theorem exec_immediate_quiet {c : Instr} {s t : State} (hc : c.mayBeInFlight = false) (hq : s.Quiet)
    (h : exec c s = .next t) : t.Quiet ∧ t.env.hostOps = s.env.hostOps := by
  cases c with
  | nop => cases h; exact ⟨hq, rfl⟩
  | sreset => cases h; exact ⟨⟨rfl, rfl, rfl⟩, rfl⟩
  | _ => cases hc

/-- From its acceptance in a quiet state a polled command takes effect (20_memory.md R62). -/
theorem reaches_retired {c : Instr} {s t w : State} {rest : List HostOp} (hc : c.mayBeInFlight = true) (hq : s.Quiet)
    (hw : s.SameBlock w) (ho : w.env.hostOps = .poll :: rest) (h : exec c s = .next t) :
    ∃ u, (accept c w).Reaches u ∧ t.SameBlock u ∧ u.Quiet ∧ u.env.hostOps = .poll :: rest := by
  obtain ⟨hbusy, hpend, -⟩ := hq
  obtain ⟨v, hreach, hsame, hwait, hops⟩ := reaches_enginesTurn (s := accept c w) rfl ho
  have hv : v = { s with busy := true, pend := some c, env := v.env } := by
    rw [hsame, hw]
    rfl
  have hexec := exec_inFlight_congr hc h v.env true (some c)
  rw [← hv] at hexec
  have hstep := step_enginesTurn (by rw [hv]) (by rw [hv]) hwait hexec
  refine ⟨_, hreach.trans (.of_step hstep), ?_, ⟨rfl, rfl, hwait⟩, hops⟩
  have hframe := exec_inFlight_frame hc h
  rw [hbusy, hpend] at hframe
  unfold State.SameBlock
  rw [hframe]
  rfl

/-- A command written to CMD in a quiet state and polled takes effect, whatever its latency (20_memory.md R63). -/
theorem reaches_performed {c : Instr} {s t : State} {rest : List HostOp} (hq : s.Quiet)
    (ho : s.env.hostOps = .write 0x04 4 (encode c) :: .poll :: rest) (h : exec c s = .next t) :
    ∃ u, s.Reaches u ∧ t.SameBlock u ∧ u.Quiet ∧ u.env.hostOps = .poll :: rest := by
  obtain ⟨hbusy, hpend, hwait⟩ := hq
  have hstep := step_writeCmd hbusy ho (decode_encode c)
  have hsame : s.SameBlock (respond (.written 0x04) (passTime (.poll :: rest) s)) := rfl
  have hquiet : (respond (.written 0x04) (passTime (.poll :: rest) s)).Quiet := ⟨hbusy, hpend, by simp [hwait]⟩
  cases hc : c.mayBeInFlight with
  | false =>
    obtain ⟨u, hu, husame⟩ := exec_sameBlock hsame h
    rw [issueDecoded_immediate hc, hu] at hstep
    obtain ⟨huquiet, hops⟩ := exec_immediate_quiet hc hquiet hu
    exact ⟨u, .of_step hstep, husame, huquiet, hops⟩
  | true =>
    rw [issueDecoded, if_pos hc] at hstep
    obtain ⟨u, hreach, hu⟩ := reaches_retired hc ⟨hbusy, hpend, hwait⟩ hsame rfl h
    exact ⟨u, (State.Reaches.of_step hstep).trans hreach, hu⟩

/-- CMDW: the command takes effect, and the last read of POLL sees BUSY = 0 (30_encoding.md R89). -/
theorem reaches_cmdw {c : Instr} {s t : State} {rest : List HostOp} (hq : s.Quiet)
    (ho : s.env.hostOps = cmdwOps c ++ rest) (h : exec c s = .next t) :
    ∃ u, s.Reaches u ∧ t.SameBlock u ∧ u.Quiet ∧ u.env.hostOps = rest := by
  obtain ⟨v, hreach, hsame, ⟨hbusy, hpend, hwait⟩, hops⟩ := reaches_performed hq ho h
  obtain ⟨u, hstep, hsame', hwait', hops'⟩ := step_poll (engineMoves_idle hbusy) hops
  refine ⟨u, hreach.trans (.of_step hstep), hsame.trans hsame', ⟨?_, ?_, ?_⟩, ?_⟩
  · rw [hsame']; exact hbusy
  · rw [hsame']; exact hpend
  · rw [hwait', hwait]
  · simpa [hbusy] using hops'

/-- A list of commands issued with CMDW takes effect in order, by induction on the list: each CMDW leaves a quiet state, and
the commands after it do the same to the block in its environment. -/
theorem reaches_execAll {cs : List Instr} {s t : State} {rest : List HostOp} (hq : s.Quiet)
    (ho : s.env.hostOps = cs.flatMap cmdwOps ++ rest) (h : execAll cs s = some t) :
    ∃ u, s.Reaches u ∧ t.SameBlock u ∧ u.Quiet ∧ u.env.hostOps = rest := by
  induction cs generalizing s t with
  | nil => cases h; exact ⟨s, .refl s, rfl, hq, ho⟩
  | cons c cs ih =>
    rw [List.flatMap_cons, List.append_assoc] at ho
    obtain ⟨v, hv, hrest⟩ := execAll_cons_eq_some h
    obtain ⟨w, hreach, hsame, hwquiet, hops⟩ := reaches_cmdw hq ho hv
    obtain ⟨t', ht', htsame⟩ := execAll_sameBlock hsame hrest
    obtain ⟨u, hreach', husame, hu⟩ := ih hwquiet hops ht'
    exact ⟨u, hreach.trans hreach', htsame.trans husame, hu⟩

/-- Settles O11: what a list of polled commands reaches, with the number of steps it takes. -/
theorem polledCommandsRunInOrder : Obligations.PolledCommandsRunInOrder := by
  intro cs rest s t hq ho h
  obtain ⟨u, ⟨n, hn⟩, hu⟩ := reaches_execAll hq ho h
  exact ⟨n, u, hn, hu⟩

end Sys2Proof.Machine
end

section
/-! PROOFS. The encoding (30_encoding.md R83 to R85): `encode` and `decode` are inverse to each other, the decoder reads the
rows of the opcode map, and it refuses the three illegal classes. -/

namespace Sys2Proof

/-! The round trip -/

/-- A word that decodes is its command's encoding: the tests the decoder passed fix each of the word's fields (R84). -/
theorem encode_of_decode {v : Word} {i : Instr} (h : decode v = .ok i) : encode i = v := by
  rw [word_eq_fields v]
  revert h
  fun_cases decode v with
  | case2 hr ho =>
    rintro ⟨⟩
    rw [Machine.encode_b32Char, not_not.1 hr, ho]
    rfl
  | case4 hr _ hd ho | case5 hr _ hd _ ho | case6 hr _ hd _ _ ho | case7 hr _ hd _ _ _ ho | case8 hr _ hd _ _ _ _ ho
  | case9 hr _ hd _ _ _ _ _ ho | case10 hr _ hd _ _ _ _ _ _ ho =>
    rintro ⟨⟩
    rw [not_not.1 hr, not_not.1 hd, ho]
    rfl
  | _ => nofun

/-- A command has exactly one word (R83, R84). -/
theorem decode_eq_ok_iff (v : Word) (i : Instr) : decode v = .ok i ↔ v = encode i := by
  constructor
  · exact fun h => (encode_of_decode h).symm
  · rintro rfl
    exact Machine.decode_encode i

/-- Settles O4: every command decodes from its encoding, and a decoded word's fields leave its command no other. -/
theorem decodeEncodeAgree : Obligations.DecodeEncodeAgree :=
  ⟨fun i _ => Machine.decode_encode i, fun _ _ h => encode_of_decode h⟩

/-! The opcode map -/

/-- A full mask holds every bit of the word fixed. -/
theorem and_fullMask (v : Word) : v &&& 0xFFFFFFFF#32 = v := BitVec.and_allOnes

/-- The mask of B32_CHAR's row holds RSVD and OP fixed and leaves DATA, the character, free (R83). -/
theorem fields_and_b32CharMask (v : Word) :
    rsvdField (v &&& 0xFFFF00FF#32) = rsvdField v ∧ dataField (v &&& 0xFFFF00FF#32) = 0 ∧
    opField (v &&& 0xFFFF00FF#32) = opField v := by
  simp only [rsvdField, dataField, opField, BitVec.extractLsb'_and]
  exact ⟨BitVec.and_allOnes, BitVec.and_zero, BitVec.and_allOnes⟩

/-- A word selects the row of B32_CHAR exactly when its RSVD and OP are the row's. -/
theorem selects_b32CharRow_iff (v : Word) :
    v &&& 0xFFFF00FF#32 = 0x00000002#32 ↔ rsvdField v = 0 ∧ opField v = 0x02 := by
  obtain ⟨hr, hd, ho⟩ := fields_and_b32CharMask v
  constructor
  · intro h
    rw [← hr, ← ho, h]
    exact ⟨rfl, rfl⟩
  · rintro ⟨hr0, ho2⟩
    rw [word_eq_fields (v &&& 0xFFFF00FF#32), hr, hd, ho, hr0, ho2]
    rfl

/-- The words of B32_CHAR's row decode to it with their DATA field, and no others do (R84). -/
theorem decode_eq_b32Char_iff (v : Word) (ch : Byte) :
    decode v = .ok (.b32Char ch) ↔ v &&& 0xFFFF00FF#32 = 0x00000002#32 ∧ ch = dataField v := by
  rw [selects_b32CharRow_iff]
  constructor
  · fun_cases decode v with
    | case2 hr ho =>
      rintro ⟨⟩
      exact ⟨⟨not_not.1 hr, ho⟩, rfl⟩
    | _ => nofun
  · rintro ⟨⟨hr, ho⟩, rfl⟩
    simp [decode, hr, ho]

/-- A word decodes to a command exactly when it selects the command's row: a row with a full mask holds one word, the
command's encoding, and B32_CHAR's row leaves the character free (R83). -/
theorem decode_eq_ok_iff_row (v : Word) (i : Instr) : decode v = .ok i ↔
    (v &&& 0xFFFFFFFF#32 = 0x00000000#32 ∧ i = .nop) ∨
    (v &&& 0xFFFFFFFF#32 = 0x00000001#32 ∧ i = .keyclr) ∨
    (v &&& 0xFFFF00FF#32 = 0x00000002#32 ∧ i = .b32Char (v.extractLsb' 8 8)) ∨
    (v &&& 0xFFFFFFFF#32 = 0x00000003#32 ∧ i = .b32End) ∨
    (v &&& 0xFFFFFFFF#32 = 0x00000004#32 ∧ i = .hmac) ∨
    (v &&& 0xFFFFFFFF#32 = 0x00000005#32 ∧ i = .trunc) ∨
    (v &&& 0xFFFFFFFF#32 = 0x00000006#32 ∧ i = .totp) ∨
    (v &&& 0xFFFFFFFF#32 = 0x0000000F#32 ∧ i = .sreset) := by
  cases i with
  | b32Char ch => simp [decode_eq_b32Char_iff, dataField]
  | _ => simp [decode_eq_ok_iff, encode, and_fullMask]

/-- Some row is selected exactly when some command is decoded (R83). -/
theorem legalWord_iff (v : Word) : legalWord v = true ↔ ∃ i, decode v = .ok i := by
  simp only [decode_eq_ok_iff_row, exists_or, exists_and_left, exists_eq, and_true]
  simp [legalWord, opRows, OpRow.selects]

/-- A word that selects two rows agrees with both patterns on the bits that both masks hold fixed. -/
theorem OpRow.not_selects_of_disjoint {r q : OpRow} {v : Word} (h : r.disjoint q = true) (hr : r.selects v = true) :
    ¬ q.selects v = true := by
  intro hq
  simp only [OpRow.selects, beq_iff_eq] at hr hq
  have hagree : (v &&& r.mask ^^^ v &&& q.mask) &&& (r.mask &&& q.mask) = 0 := by
    ext i hi
    simp only [BitVec.getElem_and, BitVec.getElem_xor, BitVec.ofNat_eq_ofNat, BitVec.getElem_zero]
    cases r.mask[i] <;> cases q.mask[i] <;> simp
  rw [hr, hq] at hagree
  simp [OpRow.disjoint, hagree] at h

/-- Rows that are disjoint in pairs are selected by a word one at a time. -/
theorem length_filter_selects_le_one {rows : List OpRow} (h : rows.Pairwise fun r q => r.disjoint q = true) (v : Word) :
    (rows.filter fun r => r.selects v).length ≤ 1 := by
  induction rows with
  | nil => exact Nat.zero_le _
  | cons r rows ih =>
    obtain ⟨hr, hrows⟩ := List.pairwise_cons.1 h
    by_cases hs : r.selects v = true
    · rw [List.filter_cons_of_pos (p := fun r : OpRow => r.selects v) hs,
        List.filter_eq_nil_iff.2 fun q hq => OpRow.not_selects_of_disjoint (hr q hq) hs]
      exact Nat.le_refl 1
    · rw [List.filter_cons_of_neg (p := fun r : OpRow => r.selects v) hs]
      exact ih hrows

theorem opRows_disjoint : opRows.Pairwise fun r q => r.disjoint q = true := by decide

/-- Settles O2: decoding a word and selecting a row are the same, and rows that are disjoint in pairs share no word. -/
theorem opcodeMapIsExact : Obligations.OpcodeMapIsExact :=
  ⟨decode_eq_ok_iff_row, legalWord_iff, length_filter_selects_le_one opRows_disjoint⟩

/-! The illegal words -/

/-- The opcodes 0x07 to 0x0E and 0x10 to 0xFF are those of no command (30_encoding.md R83, R85). -/
theorem reservedOpcode_iff (op : Byte) : (0x07 ≤ op.toNat ∧ op.toNat ≤ 0x0E) ∨ 0x10 ≤ op.toNat ↔
    op ∉ [0x00, 0x01, 0x02, 0x03, 0x04, 0x05, 0x06, 0x0F] := by
  simp only [List.mem_cons, List.not_mem_nil, or_false, BitVec.toNat_eq, BitVec.ofNat_eq_ofNat, BitVec.toNat_ofNat]
  omega

/-- A word is refused exactly when it is in one of the three classes of R85: each refusal comes from a test for its class,
and a word that is accepted has passed the tests for all three. -/
theorem decode_isError_iff (v : Word) :
    (∃ e, decode v = .error e) ↔ rsvdField v ≠ 0 ∨ (opField v ≠ 0x02 ∧ dataField v ≠ 0) ∨
      opField v ∉ [0x00, 0x01, 0x02, 0x03, 0x04, 0x05, 0x06, 0x0F] := by
  fun_cases decode v with
  | case1 hr => exact iff_of_true ⟨_, rfl⟩ (.inl hr)
  | case3 hr ho hd => exact iff_of_true ⟨_, rfl⟩ (.inr (.inl ⟨ho, hd⟩))
  | case11 hr ho hd h0 h1 h3 h4 h5 h6 hF =>
    exact iff_of_true ⟨_, rfl⟩ (.inr (.inr (by simpa using ⟨h0, h1, ho, h3, h4, h5, h6, hF⟩)))
  | case2 hr ho => exact iff_of_false nofun (by simp [not_not.1 hr, ho])
  | _ => exact iff_of_false nofun (by simp_all)

/-- Issuing a refused word while idle raises ILLEGAL_CMD (20_memory.md R63). -/
theorem issue_illegal_idle {v : Word} {e : IllegalWord} {s : Machine.State} (h : decode v = .error e)
    (hb : s.busy = false) : Machine.issue v s = .next (Machine.raiseErr .illegalCmd s) := by
  have hv : v ≠ Machine.sresetWord := decode_error_ne_sreset h
  simp [Machine.issue, hv, hb, h]

/-- Settles O3: the three classes are what the decoder tests for, and a refused word is not SRESET's, so issuing it raises
the one error of its case. -/
theorem illegalWordsAreExact : Obligations.IllegalWordsAreExact := by
  intro v
  refine ⟨?_, fun ⟨e, h⟩ s => ?_⟩
  · rw [decode_isError_iff, ← reservedOpcode_iff]
    rfl
  · by_cases hb : s.busy = true
    · rw [Machine.issue_busy (decode_error_ne_sreset h) hb, if_pos hb]
      rfl
    · rw [issue_illegal_idle h (Bool.eq_false_of_not_eq_true hb), if_neg hb]
      rfl

/-- Settles O1: the decoder run on each word. -/
theorem commandWordsDecode : Obligations.CommandWordsDecode := by
  unfold Obligations.CommandWordsDecode
  decide

end Sys2Proof
end

section
/-! PROOFS. Host programs (30_encoding.md R88 to R90): what each pseudo-instruction's moves are, and what the writes of
SETDIGEST leave. -/

namespace Sys2Proof.Machine

/-! Several writes of the digest -/

/-- The digest words k of the list are written, each with its word. -/
def setDigestWords (w : Fin 5 → Word) (ks : List (Fin 5)) (s : State) : State :=
  ks.foldl (fun u k => setDigestWord k (w k) u) s

@[simp] theorem setDigestWords_cons (w : Fin 5 → Word) (k : Fin 5) (ks : List (Fin 5)) (s : State) :
    setDigestWords w (k :: ks) s = setDigestWords w ks (setDigestWord k (w k) s) := rfl

/-- A digest register that is written holds its word, and every other keeps its value. -/
theorem regValue_setDigestWords (w : Fin 5 → Word) (ks : List (Fin 5)) (s : State) (j : Fin 5) :
    regValue (.digest j) (setDigestWords w ks s) = if j ∈ ks then w j else regValue (.digest j) s := by
  induction ks generalizing s with
  | nil => rfl
  | cons k ks ih =>
    rw [setDigestWords_cons, ih]
    by_cases hk : j = k
    · rw [← hk, regValue_setDigestWord_same, ite_self, if_pos List.mem_cons_self]
    · rw [regValue_setDigestWord_other hk]
      simp [hk]

/-- The five digest registers present every byte of the digest (10_state.md R42). -/
theorem digest_eq_of_regValue_eq {s t : State} (h : ∀ k, regValue (.digest k) s = regValue (.digest k) t) :
    s.digest = t.digest := by
  ext1 i hi
  have hbyte (x : Vector Byte 20) := packWord_byte x (i / 4) (by omega) ⟨i % 4, by omega⟩
  simp only [Nat.div_add_mod] at hbyte
  rw [← hbyte s.digest, ← hbyte t.digest]
  exact congrArg (·.extractLsb' (24 - 8 * (i % 4)) 8) (h ⟨i / 4, by omega⟩)

/-- The digest is all that the writes change (20_memory.md R57). -/
theorem setDigestWords_frame (w : Fin 5 → Word) (ks : List (Fin 5)) (s : State) :
    setDigestWords w ks s = { s with digest := (setDigestWords w ks s).digest } := by
  induction ks generalizing s with
  | nil => rfl
  | cons k ks ih =>
    rw [setDigestWords_cons, ih]
    rfl

/-- Writing all five words of a digest sets it and nothing else (30_encoding.md R89). -/
theorem setDigestWords_packWord (d : Vector Byte 20) (s : State) :
    setDigestWords (fun k => packWord d.toList k.val) (List.finRange 5) s = { s with digest := d } := by
  have hd : (setDigestWords (fun k => packWord d.toList k.val) (List.finRange 5) s).digest = d := by
    refine digest_eq_of_regValue_eq (t := { s with digest := d }) fun k => ?_
    rw [regValue_setDigestWords, if_pos (List.mem_finRange k)]
    rfl
  rw [setDigestWords_frame, hd]

/-! The moves of SETDIGEST -/

/-- While idle the host's write of DIGESTk is one step (20_memory.md R57, R67). -/
theorem step_writeDigest {s : State} {k : Fin 5} {v : Word} {rest : List HostOp} (hb : s.busy = false)
    (ho : s.env.hostOps = .write (Reg.digest k).offset 4 v :: rest) :
    ∃ t, step s = .next t ∧ (setDigestWord k v s).SameBlock t ∧ t.env.hostOps = rest :=
  ⟨_, (step_hostMove (engineMoves_idle hb) ho).trans (memWrite_idle (r := .digest k) (fun _ => rfl) hb), rfl, rfl⟩

/-- The writes do the same to the block in every environment. -/
theorem setDigestWords_sameBlock {w : Fin 5 → Word} {ks : List (Fin 5)} {s s' : State} (h : s.SameBlock s') :
    (setDigestWords w ks s).SameBlock (setDigestWords w ks s') := by
  induction ks generalizing s s' with
  | nil => exact h
  | cons k ks ih =>
    rw [setDigestWords_cons, setDigestWords_cons]
    refine ih ?_
    unfold State.SameBlock at *
    rw [h]
    rfl

/-- While idle a list of digest writes takes one step for each, by induction on the list. -/
theorem run_writeDigests {w : Fin 5 → Word} {ks : List (Fin 5)} {s : State} {rest : List HostOp} (hb : s.busy = false)
    (ho : s.env.hostOps = (ks.flatMap fun k => wrOps (.digest k) (w k)) ++ rest) :
    ∃ t, core.run ks.length s = .next t ∧ (setDigestWords w ks s).SameBlock t ∧ t.env.hostOps = rest := by
  induction ks generalizing s with
  | nil => exact ⟨s, run_zero s, rfl, ho⟩
  | cons k ks ih =>
    obtain ⟨u, hstep, hsame, hops⟩ := step_writeDigest hb ho
    have hbu : u.busy = false := by rw [hsame]; exact hb
    obtain ⟨t, hrun, hsame', hrest⟩ := ih hbu hops
    exact ⟨t, (run_succ hstep).trans hrun, (setDigestWords_sameBlock hsame).trans hsame', hrest⟩

/-- SETDIGEST takes effect in five steps (30_encoding.md R89). -/
theorem run_setDigest {d : Vector Byte 20} {s : State} {rest : List HostOp} (hb : s.busy = false)
    (ho : s.env.hostOps = (HostStmt.setDigest d).ops ++ rest) :
    ∃ t, core.run 5 s = .next t ∧ { s with digest := d }.SameBlock t ∧ t.env.hostOps = rest := by
  have h := run_writeDigests hb ho
  rwa [setDigestWords_packWord, List.length_finRange] at h

/-! What the statements expand to -/

theorem cmdwOps_eq (i : Instr) : cmdwOps i = [.write 0x04 4 (encode i), .poll] := rfl

theorem b32Ops_eq_flatten (bytes : List Byte) : b32Ops bytes =
    (bytes.map fun b : Byte => [HostOp.write 0x04 4 ((b.setWidth 32 <<< 8) ||| 0x02#32), .poll]).flatten := rfl

theorem programOps_append (p q : List HostStmt) : programOps (p ++ q) = programOps p ++ programOps q :=
  List.flatMap_append

/-- LOADKEY polls KEYCLR, the characters and B32_END in order (R89). -/
theorem loadKey_ops (bytes : List Byte) :
    (HostStmt.loadKey bytes).ops = (loadKeyCommands bytes).flatMap cmdwOps := by
  simp [HostStmt.ops, loadKeyCommands, b32Ops, List.flatMap_append, List.flatMap_map]

/-- The words of SETCTR, CTR_LO's and CTR_HI's, make up the counter (R89). -/
theorem extractLsb'_halves (c : BitVec 64) :
    (c.extractLsb' 32 32).toNat * 2 ^ 32 + (c.extractLsb' 0 32).toNat = c.toNat := by
  simp only [BitVec.extractLsb'_toNat, Nat.shiftRight_eq_div_pow]
  omega

/-- Settles O56: a statement's moves are read off its definition, LOADKEY's are its commands' with POLL, and the five
writes of SETDIGEST leave the digest they were packed from. -/
theorem hostStatementsExpand : Obligations.HostStatementsExpand := by
  refine ⟨fun _ _ => rfl, fun _ => rfl, fun _ _ => rfl, fun _ => rfl, rfl, b32Ops_eq_flatten,
    fun p q s => ⟨programOps_append p q, rfl⟩, cmdwOps_eq, fun _ => rfl, loadKey_ops,
    fun c => ⟨_, _, rfl, extractLsb'_halves c⟩, fun d s hb rest ho => run_setDigest hb ho⟩

end Sys2Proof.Machine
end

section
/-! PROOFS. The Base32 decoder command by command: the symbol map (40_base32.md R100), the accumulator's step (R102), and
KEYCLR, B32_CHAR and B32_END (R103 to R105). -/

namespace Sys2Proof.Machine

/-! The symbol map -/

/-- The fold moves the lower-case letters by 0x20 and nothing else (40_base32.md R100). -/
theorem foldCase_toNat (c : Byte) :
    (foldCase c).toNat = if 0x61 ≤ c.toNat ∧ c.toNat ≤ 0x7A then c.toNat - 0x20 else c.toNat := by
  unfold foldCase
  simp only [BitVec.le_def, BitVec.reduceToNat]
  split
  · bv_omega
  · rfl

/-- Settles O35: the fold takes the lower-case letters onto the upper-case ones, and leaves digits where they are. -/
theorem symbolMap : Obligations.SymbolMap := by
  intro c
  have hfold := foldCase_toNat c
  unfold b32val
  simp only [BitVec.le_def, BitVec.reduceToNat]
  split
  · have hval : ((foldCase c - 0x41#8).setWidth 5).toNat = (foldCase c).toNat - 0x41 := by bv_omega
    rw [Option.map_some, hval]
    grind
  split
  · have hval : ((foldCase c - 0x32#8 + 26#8).setWidth 5).toNat = (foldCase c).toNat - 0x32 + 26 := by bv_omega
    rw [Option.map_some, hval]
    grind
  · grind

/-! The accumulator's step -/

/-- Fewer than 8 bits after the symbol are all kept (40_base32.md R102). -/
theorem accStep_buffers {a : BitVec 7} {k : BitVec 3} (ha : a.toNat < 2 ^ k.toNat) (hk : k.toNat + 5 < 8) (m : BitVec 5) :
    ∃ a' k', accStep a k m = (a', k', none) ∧ k'.toNat = k.toNat + 5 ∧ a'.toNat = a.toNat * 32 + m.toNat ∧
      a'.toNat < 2 ^ k'.toNat := by
  have hpow : 2 ^ k.toNat ≤ 2 ^ 2 := Nat.pow_le_pow_right (by omega) (by omega)
  have hm := m.isLt
  have hstep : accStep a k m = (BitVec.ofNat 7 (a.toNat * 32 + m.toNat), BitVec.ofNat 3 (k.toNat + 5), none) :=
    if_pos hk
  have hlt := accStep_lt ha m
  rw [hstep] at hlt
  exact ⟨_, _, hstep, Nat.mod_eq_of_lt (by omega), Nat.mod_eq_of_lt (by omega), hlt⟩

/-- From 8 bits on the upper 8 are emitted and the others kept (40_base32.md R102). -/
theorem accStep_emits {a : BitVec 7} {k : BitVec 3} (ha : a.toNat < 2 ^ k.toNat) (hk : 8 ≤ k.toNat + 5) (m : BitVec 5) :
    ∃ a' k' out, accStep a k m = (a', k', some out) ∧ k'.toNat = k.toNat + 5 - 8 ∧ a'.toNat < 2 ^ k'.toNat ∧
      a.toNat * 32 + m.toNat = out.toNat * 2 ^ k'.toNat + a'.toNat := by
  have hm := m.isLt
  have hrest : (BitVec.ofNat 3 (k.toNat + 5 - 8)).toNat = k.toNat + 5 - 8 := Nat.mod_eq_of_lt (by omega)
  have hpow : 2 ^ k.toNat = 2 ^ (k.toNat + 5 - 8) * 8 := by
    rw [show k.toNat = k.toNat + 5 - 8 + 3 by omega, Nat.pow_add]
    simp
  have hsmall : 2 ^ (k.toNat + 5 - 8) ≤ 2 ^ 4 := Nat.pow_le_pow_right (by omega) (by omega)
  have hmod := Nat.mod_lt (a.toNat * 32 + m.toNat) (Nat.two_pow_pos (k.toNat + 5 - 8))
  refine ⟨_, _, _, if_neg (by omega), hrest, ?_⟩
  rw [hrest, BitVec.toNat_ofNat, BitVec.toNat_ofNat, Nat.mod_eq_of_lt (a := _ % _) (by omega),
    Nat.mod_eq_of_lt (Nat.div_lt_of_lt_mul (by omega))]
  exact ⟨hmod, (Nat.div_add_mod' _ _).symm⟩

/-- Settles O36: with fewer than 8 bits the step buffers, from 8 on it emits. -/
theorem accumulatorStep : Obligations.AccumulatorStep := by
  intro a k m ha
  by_cases hk : k.toNat + 5 < 8
  · obtain ⟨a', k', hstep, hbits, hacc, hlt⟩ := accStep_buffers ha hk m
    rw [hstep]
    exact ⟨hk, hbits, hacc, hlt⟩
  · obtain ⟨a', k', out, hstep, hbits, hrest, hsum⟩ := accStep_emits ha (not_lt.1 hk) m
    rw [hstep]
    exact ⟨not_lt.1 hk, hbits, hrest, hsum⟩

/-! KEYCLR -/

/-- KEYCLR's effect, from every state (40_base32.md R103). -/
def openDecode (s : State) : State := setKState .loading (setAcc 0 0 (clearKey s))

theorem exec_keyclr (s : State) : exec .keyclr s = .next (openDecode s) := rfl

theorem openDecode_opened (s : State) : (openDecode s).Opened := ⟨rfl, rfl, rfl, rfl⟩

theorem statusWord_idle_of_opened {s : State} (h : s.Opened) (hb : s.busy = false) : statusWord s = 0 := by
  obtain ⟨hkstate, hlen, hacc, hbits⟩ := h
  simp [statusWord, hkstate, hlen, hacc, hbits, hb, KState.toBits]

theorem regValue_key_openDecode (k : Fin 16) (s : State) : regValue (.key k) (openDecode s) = 0 := by
  rw [regValue, packWord_toList _ _ (by omega)]
  simp [openDecode, be32]

/-- Settles O37: the command's word, its effect, and its write while busy. -/
theorem keyclrOpensTheDecode : Obligations.KeyclrOpensTheDecode := by
  refine ⟨fun v => decode_eq_ok_iff v .keyclr, fun s => ?_, fun s hb => issue_busy (by decide) hb⟩
  refine ⟨openDecode s, exec_keyclr s, fun i => ?_, rfl, ?_, fun k => regValue_key_openDecode k s⟩
  · simp [openDecode]
  · exact statusWord_idle_of_opened (openDecode_opened s) rfl

/-! B32_CHAR -/

theorem exec_b32Char_valid {s : State} (hk : s.kstate = .valid) (ch : Byte) :
    exec (.b32Char ch) s = .next (raiseErr .keySealed s) := by simp only [exec, execB32Char, hk]

theorem exec_b32Char_failed {s : State} (hk : s.kstate = .failed) (ch : Byte) :
    exec (.b32Char ch) s = .next s := by simp only [exec, execB32Char, hk]

theorem exec_b32Char_skips {s : State} {ch : Byte} (hk : s.kstate = .loading) (hm : b32val ch = none) :
    exec (.b32Char ch) s = .next s := by simp only [exec, execB32Char, hk, hm]

theorem exec_b32Char_feeds {s : State} {ch : Byte} {m : BitVec 5} (hk : s.kstate = .loading) (hm : b32val ch = some m) :
    exec (.b32Char ch) s = .next (feedSymbol m s) := by simp only [exec, execB32Char, hk, hm]

/-- A symbol that completes no byte is buffered, whatever LEN is (40_base32.md R104). -/
theorem feedSymbol_buffers {s : State} (hs : s.accInBits) (hb : s.bits.toNat + 5 < 8) (m : BitVec 5) :
    ∃ a k, feedSymbol m s = setAcc a k s ∧ k.toNat = s.bits.toNat + 5 ∧ a.toNat = s.acc.toNat * 32 + m.toNat ∧
      a.toNat < 2 ^ k.toNat := by
  obtain ⟨a, k, hstep, hkept⟩ := accStep_buffers hs hb m
  exact ⟨a, k, by simp only [feedSymbol, hstep], hkept⟩

/-- A symbol that completes a 65th byte overflows (40_base32.md R104). -/
theorem feedSymbol_overflows {s : State} (hs : s.accInBits) (hb : 8 ≤ s.bits.toNat + 5) (hl : s.len.toNat = 64)
    (m : BitVec 5) : feedSymbol m s = overflowKey s := by
  obtain ⟨a, k, out, hstep, -⟩ := accStep_emits hs hb m
  simp only [feedSymbol, hstep]
  exact if_pos hl

/-- A symbol that completes a byte with room for it stores the byte and keeps the rest (40_base32.md R104). -/
theorem feedSymbol_stores {s : State} (hs : s.accInBits) (hb : 8 ≤ s.bits.toNat + 5) (hl : s.len.toNat ≠ 64)
    (m : BitVec 5) :
    ∃ a k out, feedSymbol m s = setAcc a k (storeByte out s) ∧ k.toNat = s.bits.toNat - 3 ∧ a.toNat < 2 ^ k.toNat ∧
      s.acc.toNat * 32 + m.toNat = out.toNat * 2 ^ k.toNat + a.toNat := by
  obtain ⟨a, k, out, hstep, hbits, hrest, hsum⟩ := accStep_emits hs hb m
  refine ⟨a, k, out, ?_, by omega, hrest, hsum⟩
  simp only [feedSymbol, hstep]
  exact if_neg hl

/-- LEN counts one more, below the width of its field. -/
theorem storeByte_len_toNat {s : State} (hl : s.len.toNat < 64) (out : Byte) :
    (storeByte out s).len.toNat = s.len.toNat + 1 := by
  rw [storeByte_len]
  bv_omega

theorem getElem_storeByte_same {s : State} {i : Nat} (hi : i < 64) (hl : i = s.len.toNat) (out : Byte) :
    (storeByte out s).secret[i] = out := by
  subst hl
  exact Vector.getElem_setIfInBounds_self hi

theorem getElem_storeByte_other {s : State} {i : Nat} (hi : i < 64) (hl : i ≠ s.len.toNat) (out : Byte) :
    (storeByte out s).secret[i] = s.secret[i] :=
  Vector.getElem_setIfInBounds_ne hi hl.symm

/-- Settles O38: each case of the rule, then its example run on the reset state. -/
theorem b32CharFeedsOneCharacter : Obligations.B32CharFeedsOneCharacter := by
  refine ⟨fun ch => ?_, fun ch s hk => exec_b32Char_valid hk ch, fun ch s hk => exec_b32Char_failed hk ch,
    fun ch s hk hm => exec_b32Char_skips hk hm, fun ch m s hk hs hrange hm => ?_, ?_⟩
  · rw [BitVec.or_comm]
    exact decode_encode (.b32Char ch)
  · refine ⟨_, exec_b32Char_feeds hk hm, ?_⟩
    split
    · rename_i hb
      obtain ⟨a, k, hfeed, hbits, hacc, -⟩ := feedSymbol_buffers hs hb m
      rw [hfeed]
      exact ⟨rfl, hacc, hbits⟩
    rename_i hb
    split
    · rename_i hl
      rw [feedSymbol_overflows hs (not_lt.1 hb) hl]
      rfl
    · rename_i hl
      obtain ⟨a, k, out, hfeed, hbits, hrest, hsum⟩ := feedSymbol_stores hs (not_lt.1 hb) hl m
      rw [hfeed]
      refine ⟨rfl, storeByte_len_toNat (lt_of_le_of_ne hrange hl) out, hbits, hrest,
        fun i hi => getElem_storeByte_other i.isLt hi out, fun i hi => ?_⟩
      rw [setAcc_secret, getElem_storeByte_same i.isLt hi]
      exact hsum
  · exact ⟨_, _, rfl, rfl, rfl, rfl, rfl, rfl, rfl, rfl, rfl⟩

/-! B32_END -/

theorem exec_b32End_valid {s : State} (hk : s.kstate = .valid) :
    exec .b32End s = .next (raiseErr .keySealed s) := by simp only [exec, execB32End, hk]

theorem exec_b32End_failed {s : State} (hk : s.kstate = .failed) : exec .b32End s = .next s := by
  simp only [exec, execB32End, hk]

/-- An empty key fails (40_base32.md R105). -/
theorem exec_b32End_empty {s : State} (hk : s.kstate = .loading) (hl : s.len.toNat = 0) :
    exec .b32End s = .next (setKState .failed (raiseErr .invalidSecret (setAcc 0 0 s))) := by
  simp only [exec, execB32End, hk]
  exact if_pos (BitVec.eq_of_toNat_eq hl)

/-- A key of at least one byte is sealed, whatever bits are left over (40_base32.md R105). -/
theorem exec_b32End_seals {s : State} (hk : s.kstate = .loading) (hl : 0 < s.len.toNat) :
    exec .b32End s = .next (setKState .valid (setAcc 0 0 s)) := by
  simp only [exec, execB32End, hk]
  exact if_neg fun h => by simp [h] at hl

end Sys2Proof.Machine
end

section
/-! PROOFS. The Base32 decoder on strings (40_base32.md R105 to R108): a string's characters are its symbols fed in order,
what an opened decoder holds after them, and what LOADKEY leaves. -/

namespace Sys2Proof.Machine

/-! A string is its symbols -/

/-- A symbol's effect on a decoder that is open or failed (40_base32.md R104). -/
def decodeSymbol (s : State) (m : BitVec 5) : State := if s.kstate = .loading then feedSymbol m s else s

/-- The effect of several symbols in order. -/
def decodeSymbols (ms : List (BitVec 5)) (s : State) : State := ms.foldl decodeSymbol s

theorem decodeSymbols_cons (m : BitVec 5) (ms : List (BitVec 5)) (s : State) :
    decodeSymbols (m :: ms) s = decodeSymbols ms (decodeSymbol s m) := rfl

theorem decodeSymbols_append (ms ns : List (BitVec 5)) (s : State) :
    decodeSymbols (ms ++ ns) s = decodeSymbols ns (decodeSymbols ms s) := List.foldl_append

theorem decodeSymbol_loading {s : State} (hk : s.kstate = .loading) (m : BitVec 5) :
    decodeSymbol s m = feedSymbol m s := if_pos hk

theorem decodeSymbol_failed {s : State} (hk : s.kstate = .failed) (m : BitVec 5) : decodeSymbol s m = s :=
  if_neg (by simp [hk])

/-- A failed decode stays as it is (40_base32.md R104). -/
theorem decodeSymbols_failed {s : State} (hk : s.kstate = .failed) (ms : List (BitVec 5)) : decodeSymbols ms s = s := by
  induction ms with
  | nil => rfl
  | cons m ms ih => rw [decodeSymbols_cons, decodeSymbol_failed hk, ih]

/-- No symbol seals the key. -/
theorem feedSymbol_ne_valid {s : State} (hk : s.kstate ≠ .valid) (m : BitVec 5) : (feedSymbol m s).kstate ≠ .valid := by
  rcases feedSymbol_cases m s with ⟨a, k, -, hf⟩ | ⟨a, k, out, -, -, hf⟩ | ⟨a, k, out, -, -, hf⟩ <;> rw [hf]
  · exact hk
  · nofun
  · exact hk

/-- One character does what its symbol does, if it has one, and then too the key is not sealed (40_base32.md R104). -/
theorem exec_b32Char_symbols {s : State} (hk : s.kstate ≠ .valid) (ch : Byte) :
    exec (.b32Char ch) s = .next (decodeSymbols (symbols [ch]) s) ∧
    (decodeSymbols (symbols [ch]) s).kstate ≠ .valid := by
  cases hs : s.kstate with
  | valid => exact absurd hs hk
  | failed =>
    rw [decodeSymbols_failed hs]
    exact ⟨exec_b32Char_failed hs ch, hk⟩
  | loading =>
    cases hm : b32val ch with
    | none =>
      rw [symbols, List.filterMap_cons_none hm]
      exact ⟨exec_b32Char_skips hs hm, hk⟩
    | some m =>
      rw [symbols, List.filterMap_cons_some hm, List.filterMap_nil, decodeSymbols_cons,
        decodeSymbol_loading hs]
      exact ⟨exec_b32Char_feeds hs hm, feedSymbol_ne_valid hk m⟩

theorem symbols_cons (ch : Byte) (bytes : List Byte) : symbols (ch :: bytes) = symbols [ch] ++ symbols bytes :=
  List.filterMap_append (l := [ch])

theorem execAll_cons {c : Instr} {s t : State} (h : exec c s = .next t) (cs : List Instr) :
    execAll (c :: cs) s = execAll cs t := by
  rw [execAll, h]
  rfl

theorem execAll_append (cs ds : List Instr) (s : State) :
    execAll (cs ++ ds) s = (execAll cs s).bind (execAll ds) := by
  induction cs generalizing s with
  | nil => rfl
  | cons c cs ih =>
    obtain ⟨t, ht⟩ := exec_next c s
    rw [List.cons_append, execAll_cons ht, execAll_cons ht, ih]

/-- The characters of a string do what its symbols do (40_base32.md R104). -/
theorem execAll_b32Chars {s : State} (hk : s.kstate ≠ .valid) (bytes : List Byte) :
    execAll (bytes.map .b32Char) s = some (decodeSymbols (symbols bytes) s) := by
  induction bytes generalizing s with
  | nil => rfl
  | cons ch bytes ih =>
    obtain ⟨hexec, hk'⟩ := exec_b32Char_symbols hk ch
    rw [List.map_cons, execAll_cons hexec, ih hk', ← decodeSymbols_append, ← symbols_cons]

/-- LOADKEY opens the decode, feeds the string's symbols and closes the decode (40_base32.md R107). -/
theorem execAll_loadKey {bytes : List Byte} {s t : State}
    (h : exec .b32End (decodeSymbols (symbols bytes) (openDecode s)) = .next t) :
    execAll (loadKeyCommands bytes) s = some t := by
  rw [loadKeyCommands, execAll_cons (exec_keyclr s), execAll_append, execAll_b32Chars (by nofun), Option.bind_some,
    execAll_cons h]
  rfl

/-! What an opened decoder holds -/

theorem symbolsNat_concat (ms : List (BitVec 5)) (m : BitVec 5) :
    symbolsNat (ms ++ [m]) = symbolsNat ms * 32 + m.toNat := by simp [symbolsNat]

theorem bytesNat_concat (bs : List Byte) (b : Byte) : bytesNat (bs ++ [b]) = bytesNat bs * 256 + b.toNat := by
  simp [bytesNat]

theorem keyBytes_empty {s : State} (hl : s.len = 0) : keyBytes s = [] := by simp [keyBytes, hl]

/-- A stored byte comes after the key's bytes so far (40_base32.md R104). -/
theorem keyBytes_storeByte {s : State} (hl : s.len.toNat < 64) (out : Byte) :
    keyBytes (storeByte out s) = keyBytes s ++ [out] := by
  rw [keyBytes, storeByte_len_toNat hl, storeByte_secret, List.take_add_one]
  simp [keyBytes, hl, List.take_set_of_le]

/-- The open decoder after the symbols `ms`, with the ERR bits `e`: its bytes and after them its buffered bits are the
symbols' bits in order, so no bit is lost (40_base32.md R106). -/
structure State.Holds (ms : List (BitVec 5)) (e : BitVec 6) (s : State) : Prop where
  kstate : s.kstate = .loading
  err : s.err = e
  len : s.len.toNat = 5 * ms.length / 8
  bits : s.bits.toNat = 5 * ms.length % 8
  accInBits : s.accInBits
  value : bytesNat (keyBytes s) * 2 ^ s.bits.toNat + s.acc.toNat = symbolsNat ms

theorem State.Opened.holds {s : State} (h : s.Opened) : s.Holds [] s.err := by
  obtain ⟨hkstate, hlen, hacc, hbits⟩ := h
  exact ⟨hkstate, rfl, by simp [hlen], by simp [hbits], by simp [State.accInBits, hacc, hbits],
    by simp [keyBytes_empty hlen, hacc, bytesNat, symbolsNat]⟩

/-- One more symbol up to the 103rd: three in eight buffer, the others store a byte (40_base32.md R106). -/
theorem State.Holds.concat {ms : List (BitVec 5)} {e : BitVec 6} {s : State} (h : s.Holds ms e)
    (hlt : ms.length < 103) (m : BitVec 5) : (decodeSymbol s m).Holds (ms ++ [m]) e := by
  obtain ⟨hkstate, herr, hlen, hbits, hin, hvalue⟩ := h
  have hlength : (ms ++ [m]).length = ms.length + 1 := List.length_append
  rw [decodeSymbol_loading hkstate]
  by_cases hb : s.bits.toNat + 5 < 8
  · obtain ⟨a, k, hfeed, hk, hacc, ha⟩ := feedSymbol_buffers hin hb m
    rw [hfeed]
    refine ⟨hkstate, herr, hlen.trans (by omega), hk.trans (by omega), ha, ?_⟩
    calc bytesNat (keyBytes s) * 2 ^ k.toNat + a.toNat
        = (bytesNat (keyBytes s) * 2 ^ s.bits.toNat + s.acc.toNat) * 32 + m.toNat := by
          rw [hk, hacc, Nat.pow_add]
          ring
      _ = symbolsNat (ms ++ [m]) := by rw [hvalue, symbolsNat_concat]
  · obtain ⟨a, k, out, hfeed, hk, ha, hsum⟩ := feedSymbol_stores hin (not_lt.1 hb) (by omega) m
    have hl : s.len.toNat < 64 := by omega
    have hkeep : s.bits.toNat = k.toNat + 3 := by omega
    rw [hfeed]
    refine ⟨hkstate, herr, (storeByte_len_toNat hl out).trans (by omega), hk.trans (by omega), ha, ?_⟩
    calc bytesNat (keyBytes (storeByte out s)) * 2 ^ k.toNat + a.toNat
        = bytesNat (keyBytes s) * 256 * 2 ^ k.toNat + (out.toNat * 2 ^ k.toNat + a.toNat) := by
          rw [keyBytes_storeByte hl, bytesNat_concat]
          ring
      _ = (bytesNat (keyBytes s) * 2 ^ s.bits.toNat + s.acc.toNat) * 32 + m.toNat := by
          rw [← hsum, hkeep, Nat.pow_add]
          ring
      _ = symbolsNat (ms ++ [m]) := by rw [hvalue, symbolsNat_concat]

/-- What is left after a 65th byte: the key failed with all 64 bytes of the store in use (40_base32.md R104). -/
structure State.Overflowed (e : BitVec 6) (s : State) : Prop where
  kstate : s.kstate = .failed
  err : s.err = e ||| 0x02#6
  len : s.len.toNat = 64

/-- Symbol 104 overflows: with 103 before it the store is full and 3 bits are buffered (40_base32.md R106). -/
theorem State.Holds.overflows {ms : List (BitVec 5)} {e : BitVec 6} {s : State} (h : s.Holds ms e)
    (hlen : ms.length = 103) (m : BitVec 5) : (decodeSymbol s m).Overflowed e := by
  have hb := h.bits
  have hl := h.len
  rw [decodeSymbol_loading h.kstate, feedSymbol_overflows h.accInBits (by omega) (by omega)]
  exact ⟨rfl, by rw [overflowKey_err, h.err]; rfl, hl.trans (by omega)⟩

/-- Up to 103 symbols an opened decoder holds them, by induction on the last symbol. -/
theorem State.Opened.holds_symbols {s : State} (hs : s.Opened) (ms : List (BitVec 5)) (hlen : ms.length ≤ 103) :
    (decodeSymbols ms s).Holds ms s.err := by
  induction ms using List.reverseRecOn with
  | nil => exact hs.holds
  | append_singleton ms m ih =>
    rw [List.length_append, List.length_singleton] at hlen
    rw [decodeSymbols_append]
    exact (ih (by omega)).concat (by omega) m

/-- From 104 symbols on an opened decoder overflows (40_base32.md R106). -/
theorem State.Opened.overflows {s : State} (hs : s.Opened) {ms : List (BitVec 5)} (hlen : 104 ≤ ms.length) :
    (decodeSymbols ms s).Overflowed s.err := by
  obtain ⟨m, rest, hdrop⟩ := List.exists_cons_of_ne_nil (mt List.drop_eq_nil_iff.1 (show ¬ ms.length ≤ 103 by omega))
  have hheld := hs.holds_symbols (ms.take 103) (by simp)
  have hover := hheld.overflows (List.length_take_of_le (by omega)) m
  rwa [← List.take_append_drop 103 ms, hdrop, decodeSymbols_append, decodeSymbols_cons,
    decodeSymbols_failed hover.kstate]

theorem State.Holds.acc_eq {ms : List (BitVec 5)} {e : BitVec 6} {s : State} (h : s.Holds ms e) :
    s.acc.toNat = symbolsNat ms % 2 ^ s.bits.toNat := by
  rw [← h.value, Nat.mul_add_mod', Nat.mod_eq_of_lt h.accInBits]

theorem State.Holds.bytesNat_eq {ms : List (BitVec 5)} {e : BitVec 6} {s : State} (h : s.Holds ms e) :
    bytesNat (keyBytes s) = symbolsNat ms / 2 ^ s.bits.toNat := by
  rw [← h.value, Nat.mul_comm, Nat.mul_add_div (Nat.two_pow_pos _), Nat.div_eq_of_lt h.accInBits, Nat.add_zero]

/-- Settles O40: up to 103 symbols the decoder holds them, and the next overflows. -/
theorem decoderCountsSymbols : Obligations.DecoderCountsSymbols := by
  intro bytes s hs
  have hloading : s.kstate ≠ .valid := by simp [hs.1]
  refine ⟨_, execAll_b32Chars hloading bytes, fun hlen => ?_, fun hlen => ?_, fun hlen => ?_⟩
  · have h := hs.holds_symbols _ hlen
    exact ⟨h.kstate, h.err, h.len, h.bits, h.acc_eq⟩
  · have h := hs.overflows hlen
    exact ⟨h.kstate, h.err⟩
  · have h := hs.holds_symbols _ hlen.le
    have hfull := h.len
    rw [hlen] at hfull
    exact ⟨_, exec_b32End_seals h.kstate (by omega), rfl, hfull⟩

/-- Settles O41: what the opened decoder holds after the symbols, closed by B32_END. -/
theorem loadKeyOutcomes : Obligations.LoadKeyOutcomes := by
  intro bytes s
  have hopen := openDecode_opened s
  by_cases hmany : 104 ≤ (symbols bytes).length
  · have h := hopen.overflows hmany
    refine ⟨_, execAll_loadKey (exec_b32End_failed h.kstate), fun hfew => by omega, fun _ hfit => by omega, fun _ => ?_⟩
    exact ⟨h.kstate, h.len, h.err⟩
  have h := hopen.holds_symbols (symbols bytes) (by omega)
  have hlen := h.len
  by_cases hfew : (symbols bytes).length ≤ 1
  · have hnone : (decodeSymbols (symbols bytes) (openDecode s)).len.toNat = 0 := by omega
    refine ⟨_, execAll_loadKey (exec_b32End_empty h.kstate hnone), fun _ => ?_, fun hmore => by omega,
      fun hmore => by omega⟩
    exact ⟨rfl, BitVec.eq_of_toNat_eq hnone, congrArg (· ||| 0x01#6) h.err⟩
  · refine ⟨_, execAll_loadKey (exec_b32End_seals h.kstate (by omega)), fun hone => by omega, fun _ _ => ?_,
      fun hmore => by omega⟩
    exact ⟨rfl, h.err, hlen, h.bits ▸ h.bytesNat_eq⟩

/-! Two decodes of the same symbols -/

/-- Two decoders are alike, and the same ERR bits have been raised in both on top of `e` and `e'` (40_base32.md R108). -/
structure DecodersAlike (e e' : BitVec 6) (s s' : State) : Prop where
  secret : s.secret = s'.secret
  len : s.len = s'.len
  acc : s.acc = s'.acc
  bits : s.bits = s'.bits
  kstate : s.kstate = s'.kstate
  err : ∃ raised, s.err = e ||| raised ∧ s'.err = e' ||| raised

/-- KEYCLR makes any two decoders alike (40_base32.md R103). -/
theorem openDecode_alike (s s' : State) : DecodersAlike s.err s'.err (openDecode s) (openDecode s') where
  secret := rfl
  len := rfl
  acc := rfl
  bits := rfl
  kstate := rfl
  err := ⟨0, BitVec.or_zero.symm, BitVec.or_zero.symm⟩

section
variable {e e' : BitVec 6} {s s' : State}

theorem DecodersAlike.setAcc (h : DecodersAlike e e' s s') (a : BitVec 7) (k : BitVec 3) :
    DecodersAlike e e' (setAcc a k s) (setAcc a k s') := { h with acc := rfl, bits := rfl }

theorem DecodersAlike.setKState (h : DecodersAlike e e' s s') (k : KState) :
    DecodersAlike e e' (setKState k s) (setKState k s') := { h with kstate := rfl }

theorem DecodersAlike.raiseErr (h : DecodersAlike e e' s s') (b : ErrBit) :
    DecodersAlike e e' (raiseErr b s) (raiseErr b s') := by
  obtain ⟨raised, herr, herr'⟩ := h.err
  refine { h with err := ⟨raised ||| b.mask, ?_, ?_⟩ }
  · rw [raiseErr_err, herr, BitVec.or_assoc]
  · rw [raiseErr_err, herr', BitVec.or_assoc]

theorem DecodersAlike.storeByte (h : DecodersAlike e e' s s') (out : Byte) :
    DecodersAlike e e' (storeByte out s) (storeByte out s') :=
  { h with
    secret := by rw [storeByte_secret, storeByte_secret, h.secret, h.len]
    len := by rw [storeByte_len, storeByte_len, h.len] }

theorem DecodersAlike.overflowKey (h : DecodersAlike e e' s s') : DecodersAlike e e' (overflowKey s) (overflowKey s') :=
  ((h.raiseErr .bufferOverflow).setKState .failed).setAcc 0 0

theorem DecodersAlike.feedSymbol (h : DecodersAlike e e' s s') (m : BitVec 5) :
    DecodersAlike e e' (feedSymbol m s) (feedSymbol m s') := by
  unfold Machine.feedSymbol
  rw [h.acc, h.bits, h.len]
  split
  · exact h.setAcc _ _
  · split
    · exact h.overflowKey
    · exact (h.storeByte _).setAcc _ _

theorem DecodersAlike.decodeSymbol (h : DecodersAlike e e' s s') (m : BitVec 5) :
    DecodersAlike e e' (decodeSymbol s m) (decodeSymbol s' m) := by
  unfold Machine.decodeSymbol
  rw [h.kstate]
  split
  · exact h.feedSymbol m
  · exact h

theorem DecodersAlike.decodeSymbols (h : DecodersAlike e e' s s') (ms : List (BitVec 5)) :
    DecodersAlike e e' (decodeSymbols ms s) (decodeSymbols ms s') := by
  induction ms generalizing s s' with
  | nil => exact h
  | cons m ms ih => exact ih (h.decodeSymbol m)

theorem DecodersAlike.exec_b32End (h : DecodersAlike e e' s s') :
    ∃ t t', exec .b32End s = .next t ∧ exec .b32End s' = .next t' ∧ DecodersAlike e e' t t' := by
  have hk' := h.kstate.symm
  have hl' : s'.len.toNat = s.len.toNat := by rw [h.len]
  cases hk : s.kstate with
  | valid => exact ⟨_, _, exec_b32End_valid hk, exec_b32End_valid (hk'.trans hk), h.raiseErr _⟩
  | failed => exact ⟨_, _, exec_b32End_failed hk, exec_b32End_failed (hk'.trans hk), h⟩
  | loading =>
    rcases Nat.eq_zero_or_pos s.len.toNat with hl | hl
    · exact ⟨_, _, exec_b32End_empty hk hl, exec_b32End_empty (hk'.trans hk) (hl'.trans hl),
        ((h.setAcc 0 0).raiseErr .invalidSecret).setKState .failed⟩
    · exact ⟨_, _, exec_b32End_seals hk hl, exec_b32End_seals (hk'.trans hk) (hl'.symm ▸ hl),
        (h.setAcc 0 0).setKState .valid⟩

end

/-- After KEYCLR the symbols alone tell what LOADKEY leaves and raises (40_base32.md R108). -/
theorem loadKey_alike {bytes bytes' : List Byte} (h : symbols bytes = symbols bytes') (s s' : State) :
    ∃ t t', execAll (loadKeyCommands bytes) s = some t ∧ execAll (loadKeyCommands bytes') s' = some t' ∧
      DecodersAlike s.err s'.err t t' := by
  obtain ⟨t, t', ht, ht', halike⟩ := ((openDecode_alike s s').decodeSymbols (symbols bytes)).exec_b32End
  exact ⟨t, t', execAll_loadKey ht, execAll_loadKey (h ▸ ht'), halike⟩

/-- Settles O42: what makes two decoders alike names each element and the ERR bits raised. -/
theorem loadKeyIsDeterministic : Obligations.LoadKeyIsDeterministic := by
  intro bytes bytes' s s' h
  obtain ⟨t, t', ht, ht', halike⟩ := loadKey_alike h s s'
  obtain ⟨raised, herr, herr'⟩ := halike.err
  exact ⟨t, t', raised, ht, ht', halike.secret, halike.len, halike.acc, halike.bits, halike.kstate, herr, herr'⟩

/-! B32_END and its example -/

/-- "MFRGG===" is the key "abc" (40_base32.md R105). -/
theorem loadKey_mfrgg_reset :
    ∃ t, execAll (loadKeyCommands [0x4D, 0x46, 0x52, 0x47, 0x47, 0x3D, 0x3D, 0x3D]) State.reset = some t ∧
      t.kstate = .valid ∧ t.len = 3 ∧ regValue (.key 0) t = 0x61626300 ∧ t.bits = 0 ∧ t.acc = 0 :=
  ⟨_, rfl, by decide⟩

/-- Settles O39: each case of the rule, then its example, which KEYCLR makes alike from every state. -/
theorem b32EndSealsTheKey : Obligations.B32EndSealsTheKey := by
  refine ⟨fun v => decode_eq_ok_iff v .b32End, fun _ => exec_b32End_valid, fun _ => exec_b32End_failed,
    fun _ => exec_b32End_empty, fun _ => exec_b32End_seals, fun s => ?_⟩
  obtain ⟨r, hr, hkstate, hlen, hkey, hbits, hacc⟩ := loadKey_mfrgg_reset
  obtain ⟨t, r', ht, hr', halike⟩ := loadKey_alike rfl s State.reset
  cases hr.symm.trans hr'
  refine ⟨t, ht, halike.kstate.trans hkstate, halike.len.trans hlen, ?_, halike.bits.trans hbits, halike.acc.trans hacc⟩
  rw [regValue, halike.secret]
  exact hkey

end Sys2Proof.Machine
end

section
/-! PROOFS. SHA-1 rule by rule (41_hmac_sha1.md R130 to R136): the message, the round functions, the padding and its
blocks, the schedule, the compression and the chain of blocks. -/

namespace Sys2Proof.Machine

/-! HMAC with a sealed key -/

theorem exec_hmac_valid {s : State} (hk : s.kstate = .valid) : exec .hmac s = .next (hmacBody s) :=
  if_neg (not_not.2 hk)

theorem hmacBody_digest_toList (s : State) : (hmacBody s).digest.toList = hmacSha1 (keyBlock s) (message s) :=
  digestOf_toList (hmacSha1_length _ _)

/-! The message -/

theorem getElem?_be64 (c : BitVec 64) {i : Nat} (hi : i < 8) :
    (be64 c)[i]? = some (c.extractLsb' (56 - 8 * i) 8) := by
  simp [be64, hi]

/-- The first k bytes are the upper 8k bits of the number. -/
theorem bytesNat_take_be64 (c : BitVec 64) {k : Nat} (hk : k ≤ 8) :
    bytesNat ((be64 c).take k) = c.toNat / 2 ^ (64 - 8 * k) := by
  induction k with
  | zero => exact (Nat.div_eq_of_lt c.isLt).symm
  | succ k ih =>
    have hpow : 2 ^ (64 - 8 * k) = 2 ^ (56 - 8 * k) * 256 := by
      rw [show 64 - 8 * k = 56 - 8 * k + 8 by omega, Nat.pow_add]
    rw [List.take_add_one, getElem?_be64 c hk, Option.toList_some, bytesNat_concat, ih (by omega),
      BitVec.extractLsb'_toNat, Nat.shiftRight_eq_div_pow, show 64 - 8 * (k + 1) = 56 - 8 * k by omega, hpow,
      ← Nat.div_div_eq_div_mul]
    exact Nat.div_add_mod' _ _

theorem bytesNat_be64 (c : BitVec 64) : bytesNat (be64 c) = c.toNat := by
  simpa [List.take_of_length_le] using bytesNat_take_be64 c (Nat.le_refl 8)

/-- Settles O43: the bytes of `BE64(S.CTR)`, and the digest HMAC leaves. -/
theorem messageIsTheCounter : Obligations.MessageIsTheCounter := fun s =>
  ⟨be64_length _, fun _ hi => getElem?_be64 _ hi, bytesNat_be64 _,
    fun hk => ⟨hmacBody s, exec_hmac_valid hk, hmacBody_digest_toList s⟩⟩

/-! The round functions and constants -/

section
variable {t : Nat} (b c d : Word)

theorem roundF_choose (ht : t < 20) : roundF t b c d = (b &&& c) ||| (~~~b &&& d) := if_pos (by omega)

theorem roundF_majority (h40 : 40 ≤ t) (h60 : t < 60) : roundF t b c d = (b &&& c) ||| (b &&& d) ||| (c &&& d) := by
  rw [roundF, if_neg (by omega), if_neg (by omega), if_pos (by omega)]

theorem roundF_parity (h20 : 20 ≤ t) (h : ¬ (40 ≤ t ∧ t < 60)) : roundF t b c d = b ^^^ c ^^^ d := by
  rw [roundF, if_neg (by omega)]
  split
  · rfl
  · exact if_neg (by omega)

end

theorem choose_bit : ∀ x y z : Bool, (x && y || !x && z) = if x then y else z := by decide

theorem majority_bit :
    ∀ x y z : Bool, (x && y || x && z || y && z) = decide (2 ≤ x.toNat + y.toNat + z.toNat) := by decide

theorem parity_bit : ∀ x y z : Bool, (x ^^ y ^^ z) = decide ((x.toNat + y.toNat + z.toNat) % 2 = 1) := by decide

theorem roundConst_eq (t : Nat) : roundConst t =
    if t < 20 then 0x5A827999 else if t < 40 then 0x6ED9EBA1 else if t < 60 then 0x8F1BBCDC else 0xCA62C1D6 := by
  simp only [roundConst, Nat.lt_succ_iff]

/-- Settles O44: the constants as they stand, and bit n of the round function from bits n of the three words. -/
theorem roundFunctionsAndConstants : Obligations.RoundFunctionsAndConstants := by
  refine ⟨rfl, fun t _ => roundConst_eq t, fun t b c d n _ hn => ?_⟩
  split
  · rename_i h20
    rw [roundF_choose b c d h20, ← choose_bit]
    simp [hn]
  split
  · rename_i hmid
    rw [roundF_majority b c d hmid.1 hmid.2, ← majority_bit]
    simp
  · rename_i h20 hmid
    rw [roundF_parity b c d (not_lt.1 h20) hmid, ← parity_bit]
    simp

/-! The padding and its blocks -/

/-- The zero bytes stand between 0x80 and the bit length (41_hmac_sha1.md R132). -/
theorem pad_eq (m : List Byte) : pad m =
    m ++ 0x80#8 :: (List.replicate (padZeros m.length) 0x00#8 ++ be64 (BitVec.ofNat 64 (8 * m.length))) := by
  simp [pad]

theorem padZeros_cast (len : Nat) : (padZeros len : Int) = (55 - (len : Int)) % 64 := by
  unfold padZeros
  omega

theorem pad_length (m : List Byte) : (pad m).length = m.length + padZeros m.length + 9 := by
  simp only [pad_eq, List.length_append, List.length_cons, List.length_replicate, be64_length]
  omega

theorem pad_length_mod (m : List Byte) : (pad m).length % 64 = 0 := by
  have hz := padZeros_cast m.length
  rw [pad_length]
  omega

theorem blocks_nil : blocks [] = [] := rfl

/-- The first 64 bytes are the first block. -/
theorem blocks_append {b : List Byte} (hb : b.length = 64) (p : List Byte) : blocks (b ++ p) = b :: blocks p := by
  have hcount : (b ++ p).length / 64 = p.length / 64 + 1 := by
    rw [List.length_append]
    omega
  have hrest (i : Nat) : (b ++ p).drop (64 * (i + 1)) = p.drop (64 * i) := by
    rw [Nat.mul_succ, Nat.add_comm, ← List.drop_drop, List.drop_left' hb]
  rw [blocks, hcount, List.range_succ_eq_map, List.map_cons, List.map_map]
  congr 1
  · exact List.take_left' hb
  · simp only [blocks, Function.comp_def, Nat.succ_eq_add_one, hrest]

/-- A string of n times 64 bytes is its blocks joined, by induction on n. -/
theorem blocks_join {n : Nat} {p : List Byte} (hp : p.length = 64 * n) :
    (blocks p).flatten = p ∧ ∀ b ∈ blocks p, b.length = 64 := by
  induction n generalizing p with
  | zero =>
    rw [List.length_eq_zero_iff.1 hp, blocks_nil]
    simp
  | succ n ih =>
    have hhead : (p.take 64).length = 64 := List.length_take_of_le (by omega)
    obtain ⟨hjoin, hlen⟩ := ih (p := p.drop 64) (by rw [List.length_drop]; omega)
    rw [← List.take_append_drop 64 p, blocks_append hhead, List.flatten_cons, hjoin]
    exact ⟨rfl, List.forall_mem_cons.2 ⟨hhead, hlen⟩⟩

/-- Settles O45: the padding fills the last block, and a string of whole blocks is its blocks joined. -/
theorem paddingFillsBlocks : Obligations.PaddingFillsBlocks := by
  intro m
  have hz := padZeros_cast m.length
  have hmod := pad_length_mod m
  exact ⟨⟨_, by omega, hz, pad_eq m⟩, hmod, blocks_join (n := (pad m).length / 64) (by omega)⟩

/-! The schedule -/

/-- The words obey the rule of the block's schedule as far as they go (41_hmac_sha1.md R133). -/
structure ObeysSchedule (b : List Byte) (w : List Word) : Prop where
  long : 16 ≤ w.length
  packed : ∀ t < 16, w[t]? = some (blockWord b t)
  mixed : ∀ t, 16 ≤ t → t < w.length →
    w[t]? = some (rotl32 (w.getD (t - 3) 0 ^^^ w.getD (t - 8) 0 ^^^ w.getD (t - 14) 0 ^^^ w.getD (t - 16) 0) 1)

theorem obeysSchedule_packed (b : List Byte) : ObeysSchedule b ((List.range 16).map (blockWord b)) where
  long := by simp
  packed t ht := by rw [List.getElem?_map, List.getElem?_range ht, Option.map_some]
  mixed t h16 ht := by
    rw [List.length_map, List.length_range] at ht
    omega

/-- The four words behind the next one, read in the schedule's order. -/
theorem extendSchedule_reverse {w : List Word} (h : 16 ≤ w.length) :
    extendSchedule w.reverse = (w ++ [rotl32 (w.getD (w.length - 3) 0 ^^^ w.getD (w.length - 8) 0 ^^^
      w.getD (w.length - 14) 0 ^^^ w.getD (w.length - 16) 0) 1]).reverse := by
  rw [extendSchedule, List.getD_reverse _ (by omega), List.getD_reverse _ (by omega), List.getD_reverse _ (by omega),
    List.getD_reverse _ (by omega), List.reverse_concat]
  simp only [Nat.sub_sub]

/-- A word more keeps the words there are, and the new one obeys the rule. -/
theorem ObeysSchedule.extend {b : List Byte} {w : List Word} (h : ObeysSchedule b w) :
    ObeysSchedule b (extendSchedule w.reverse).reverse := by
  obtain ⟨hlong, hpacked, hmixed⟩ := h
  rw [extendSchedule_reverse hlong, List.reverse_reverse]
  refine ⟨?_, fun t ht => ?_, fun t h16 ht => ?_⟩
  · rw [List.length_append]
    omega
  · rw [List.getElem?_append_left (by omega), hpacked t ht]
  · rw [List.length_append, List.length_singleton] at ht
    rw [List.getD_append _ _ _ (t - 3) (by omega), List.getD_append _ _ _ (t - 8) (by omega),
      List.getD_append _ _ _ (t - 14) (by omega), List.getD_append _ _ _ (t - 16) (by omega)]
    rcases Nat.lt_succ_iff_lt_or_eq.1 ht with hold | rfl
    · rw [List.getElem?_append_left hold, hmixed t h16 hold]
    · exact List.getElem?_concat_length

/-- The schedule's words W[0] to W[15 + n], newest first, as its loop builds them (41_hmac_sha1.md R133). -/
def scheduleRev (b : List Byte) (n : Nat) : List Word :=
  (List.range n).foldl (fun w _ => extendSchedule w) ((List.range 16).map (blockWord b)).reverse

theorem scheduleRev_succ (b : List Byte) (n : Nat) : scheduleRev b (n + 1) = extendSchedule (scheduleRev b n) := by
  rw [scheduleRev, List.range_succ (n := n), List.foldl_concat]
  rfl

theorem scheduleRev_length (b : List Byte) (n : Nat) : (scheduleRev b n).length = 16 + n := by
  induction n with
  | zero => simp [scheduleRev]
  | succ n ih =>
    rw [scheduleRev_succ, extendSchedule, List.length_cons, ih]
    rfl

theorem scheduleRev_obeysSchedule (b : List Byte) (n : Nat) : ObeysSchedule b (scheduleRev b n).reverse := by
  induction n with
  | zero => simpa [scheduleRev] using obeysSchedule_packed b
  | succ n ih =>
    rw [scheduleRev_succ]
    simpa using ih.extend

theorem schedule_eq (b : List Byte) : schedule b = (scheduleRev b 64).reverse := rfl

theorem schedule_length (b : List Byte) : (schedule b).length = 80 := by
  rw [schedule_eq, List.length_reverse, scheduleRev_length]

theorem schedule_obeysSchedule (b : List Byte) : ObeysSchedule b (schedule b) := scheduleRev_obeysSchedule b 64

/-- Settles O46: each word the loop adds obeys the rule, by induction on their number. -/
theorem scheduleRecurrence : Obligations.ScheduleRecurrence := by
  intro b _
  have h := schedule_obeysSchedule b
  exact ⟨schedule_length b, h.packed, fun t h16 ht => h.mixed t h16 (by rwa [schedule_length])⟩

/-! The compression -/

theorem rotl32_eq_rotateLeft (x : Word) {n : Nat} (hn : n < 32) : rotl32 x n = x.rotateLeft n := by
  rw [BitVec.rotateLeft_def, Nat.mod_eq_of_lt hn]
  rfl

/-- The state before round t of the compression of a block (41_hmac_sha1.md R135). -/
def roundState (h : Hash) (block : List Byte) (t : Nat) : Hash :=
  (List.range t).foldl (fun g i => sha1Round i ((schedule block).getD i 0) g) h

theorem roundState_succ (h : Hash) (block : List Byte) (t : Nat) :
    roundState h block (t + 1) = sha1Round t ((schedule block).getD t 0) (roundState h block t) := by
  rw [roundState, List.range_succ, List.foldl_concat]
  rfl

theorem sha1Compress_eq (h : Hash) (block : List Byte) :
    sha1Compress h block = addHash h (roundState h block 80) := rfl

/-- Settles O47: the sequences are the words of the states between the rounds. -/
theorem compressionIsEightyRounds : Obligations.CompressionIsEightyRounds := by
  intro h block _
  let g := roundState h block
  refine ⟨fun t => (g t).h0, fun t => (g t).h1, fun t => (g t).h2, fun t => (g t).h3, fun t => (g t).h4,
    ⟨rfl, rfl, rfl, rfl, rfl⟩, fun t ht => ?_, sha1Compress_eq h block⟩
  have hw : t < (schedule block).length := by rwa [schedule_length]
  refine ⟨_, List.getElem?_eq_getElem hw, ?_⟩
  simp only [g, roundState_succ, sha1Round, List.getD_eq_getElem _ _ hw, rotl32_eq_rotateLeft _ (show 5 < 32 by decide),
    rotl32_eq_rotateLeft _ (show 30 < 32 by decide), and_self]

/-! The chain of blocks -/

/-- The state after the first i blocks of the padded message (41_hmac_sha1.md R136). -/
def chainState (m : List Byte) (i : Nat) : Hash := ((blocks (pad m)).take i).foldl sha1Compress hInit

theorem chainState_succ {m block : List Byte} {i : Nat} (h : (blocks (pad m))[i]? = some block) :
    chainState m (i + 1) = sha1Compress (chainState m i) block := by
  rw [chainState, List.take_add_one, h, Option.toList_some, List.foldl_concat]
  rfl

theorem sha1_eq_chainState (m : List Byte) : sha1 m = digestBytes (chainState m (blocks (pad m)).length) := by
  rw [chainState, List.take_length, sha1]

theorem getElem?_digestBytes (g : Hash) {j : Nat} (hj : j < 4) :
    (digestBytes g)[j]? = some (wordByte g.h0 j) ∧ (digestBytes g)[4 + j]? = some (wordByte g.h1 j) ∧
    (digestBytes g)[8 + j]? = some (wordByte g.h2 j) ∧ (digestBytes g)[12 + j]? = some (wordByte g.h3 j) ∧
    (digestBytes g)[16 + j]? = some (wordByte g.h4 j) := by
  match j, hj with
  | 0, _ | 1, _ | 2, _ | 3, _ => exact ⟨rfl, rfl, rfl, rfl, rfl⟩

/-- Settles O48: the chain of the blocks' compressions, and the bytes of its last state. -/
theorem sha1FoldsTheBlocks : Obligations.Sha1FoldsTheBlocks := by
  intro m
  refine ⟨chainState m, rfl, fun _ _ => chainState_succ, sha1_length m, fun j hj => ?_⟩
  rw [sha1_eq_chainState]
  exact getElem?_digestBytes _ hj

end Sys2Proof.Machine
end

section
/-! PROOFS. HMAC (41_hmac_sha1.md R137 to R141): the pads and the nesting, the four compressions of a short message, the
key block, and what the command leaves. -/

namespace Sys2Proof.Machine

/-! The nesting and its four compressions -/

/-- Xoring with one byte is xoring with the string that repeats it (41_hmac_sha1.md R138). -/
theorem xorPad_eq_zipWith (k0 : List Byte) (p : Byte) :
    xorPad k0 p = List.zipWith (· ^^^ ·) k0 (List.replicate k0.length p) := by
  induction k0 with
  | nil => rfl
  | cons b k0 ih =>
    rw [List.length_cons, List.replicate_succ, List.zipWith_cons_cons, ← ih]
    rfl

/-- Settles O49: the pads of a 64-byte key block as strings. -/
theorem hmacNestsTwoHashes : Obligations.HmacNestsTwoHashes := by
  intro k0 m hk
  refine ⟨_, rfl, sha1_length _, ?_⟩
  simp only [hmacSha1, xorPad_eq_zipWith, hk, BitVec.ofNat_eq_ofNat]

/-- After one block, a string that leaves room for the padding takes all of it into the next (41_hmac_sha1.md R132). -/
theorem pad_append_block {b m : List Byte} {z : Nat} (hb : b.length = 64) (hz : m.length + z = 55) :
    pad (b ++ m) =
      b ++ (m ++ 0x80#8 :: (List.replicate z 0x00#8 ++ be64 (BitVec.ofNat 64 (8 * (64 + m.length))))) := by
  have hlen : (b ++ m).length = 64 + m.length := by rw [List.length_append, hb]
  have hzeros : padZeros (64 + m.length) = z := by
    have := padZeros_cast (64 + m.length)
    omega
  rw [pad_eq, hlen, hzeros, List.append_assoc]

/-- A message padded to two blocks is hashed by two compressions (41_hmac_sha1.md R136). -/
theorem sha1_of_two_blocks {m b b' : List Byte} (hpad : pad m = b ++ b') (hb : b.length = 64) (hb' : b'.length = 64) :
    sha1 m = digestBytes (sha1Compress (sha1Compress hInit b) b') := by
  have hblocks : blocks (b ++ b') = [b, b'] := by
    rw [blocks_append hb, ← List.append_nil b', blocks_append hb', blocks_nil, List.append_nil]
  rw [sha1, hpad, hblocks, List.foldl_cons, List.foldl_cons, List.foldl_nil]

/-- Settles O50: the two hashes are of a key block and a string of 8, then of 20 bytes. -/
theorem hmacIsFourCompressions : Obligations.HmacIsFourCompressions := by
  intro k0 c hk inner
  have hpadBlock (p : Byte) : (xorPad k0 p).length = 64 := by rw [xorPad_length, hk]
  have hinner : sha1 (xorPad k0 0x36 ++ be64 c) = inner :=
    sha1_of_two_blocks (pad_append_block (hpadBlock _) rfl) (hpadBlock _) (by simp)
  rw [hmacSha1, hinner]
  exact sha1_of_two_blocks (pad_append_block (hpadBlock _) rfl) (hpadBlock _) (by simp [inner])

/-! The key block -/

section
variable {s : State}

theorem keyBytes_eq_map (hl : s.lenInRange) :
    keyBytes s = (List.range s.len.toNat).map fun i => s.secret.toList.getD i 0x00 := by
  apply List.ext_getElem
  · rw [keyBytes_length hl, List.length_map, List.length_range]
  · intro i hi _
    rw [keyBytes_length hl] at hi
    simp [keyBytes, show i < 64 by omega]

/-- Beyond LEN the key store holds the zeros of the key block (41_hmac_sha1.md R137; 10_state.md R32 I3). -/
theorem keyBlock_eq_secret (hz : s.tailZero) : keyBlock s = s.secret.toList := by
  have hrest : s.secret.toList.drop s.len.toNat = List.replicate (64 - s.len.toNat) 0 := by
    refine List.eq_replicate_iff.2 ⟨by simp, fun b hb => ?_⟩
    obtain ⟨i, hi, rfl⟩ := List.mem_drop_iff_getElem.1 hb
    rw [Vector.length_toList] at hi
    exact hz ⟨s.len.toNat + i, by omega⟩ (by simp)
  rw [keyBlock, keyBytes, Config.blockLen, ← hrest, List.take_append_drop]

/-- Trailing zero bytes of a key are those of its key block (41_hmac_sha1.md R137). -/
theorem keyBlock_trailing_zeros {s' : State} {j : Nat} (hl : s.lenInRange) (hl' : s'.lenInRange)
    (h : keyBytes s' = keyBytes s ++ List.replicate j 0x00) : keyBlock s' = keyBlock s := by
  have hlen : s'.len.toNat = s.len.toNat + j := by
    rw [← keyBytes_length hl', h, List.length_append, keyBytes_length hl, List.length_replicate]
  have hzeros : j + (64 - s'.len.toNat) = 64 - s.len.toNat := by
    have : s'.len.toNat ≤ 64 := hl'
    omega
  rw [keyBlock, keyBlock, h, List.append_assoc, Config.blockLen, BitVec.ofNat_eq_ofNat,
    List.replicate_append_replicate, hzeros]

end

/-! The command -/

theorem exec_hmac_not_valid {s : State} (hk : s.kstate ≠ .valid) : exec .hmac s = .next (raiseErr .keyNotReady s) :=
  if_pos hk

/-- The digest is a function of the key block and the counter (41_hmac_sha1.md R141). -/
theorem stateHmac_congr {s s' : State} (hkey : keyBlock s = keyBlock s') (hctr : s.ctr = s'.ctr) :
    stateHmac s = stateHmac s' := by
  rw [stateHmac, stateHmac, message, message, hkey, hctr]

/-- Sealed keys equal but for trailing zero bytes give equal digests under one counter (41_hmac_sha1.md R137). -/
theorem exec_hmac_trailing_zeros {s s' : State} {j : Nat} (hk : s.kstate = .valid) (hk' : s'.kstate = .valid)
    (hl : s.lenInRange) (hl' : s'.lenInRange) (hkey : keyBytes s' = keyBytes s ++ List.replicate j 0x00)
    (hctr : s.ctr = s'.ctr) : ∃ t t', exec .hmac s = .next t ∧ exec .hmac s' = .next t' ∧ t.digest = t'.digest :=
  ⟨_, _, exec_hmac_valid hk, exec_hmac_valid hk',
    congrArg digestOf (stateHmac_congr (keyBlock_trailing_zeros hl hl' hkey).symm hctr)⟩

/-- Settles O52: equal keys are equal but for no zero bytes, and HMAC leaves the key and the counter. -/
theorem hmacIsAPureFunction : Obligations.HmacIsAPureFunction := by
  refine ⟨fun s s' hk hk' hl hl' hkey hctr => ?_, fun s hk => ?_⟩
  · exact exec_hmac_trailing_zeros (j := 0) hk hk' hl hl' (hkey.symm.trans (List.append_nil _).symm) hctr
  · exact ⟨hmacBody s, hmacBody (hmacBody s), exec_hmac_valid hk, exec_hmac_valid hk,
      congrArg digestOf (stateHmac_congr rfl rfl)⟩

/-- The ASCII string "12345678901234567890", the key of the rule's example (41_hmac_sha1.md R140). -/
def exampleKey : List Byte :=
  [0x31, 0x32, 0x33, 0x34, 0x35, 0x36, 0x37, 0x38, 0x39, 0x30,
   0x31, 0x32, 0x33, 0x34, 0x35, 0x36, 0x37, 0x38, 0x39, 0x30]

theorem hmacSha1_exampleKey : hmacSha1 (exampleKey ++ List.replicate 44 0) (be64 1) =
    digestBytes ⟨0x75A48A19, 0xD4CBE100, 0x644E8AC1, 0x397EEA74, 0x7A2D33AB⟩ := by decide +kernel

/-- Twenty key bytes are the whole key: LEN counts them, as the store has more. -/
theorem stateHmac_exampleKey {s : State} (hkey : keyBytes s = exampleKey) (hctr : s.ctr = 1) :
    stateHmac s = digestBytes ⟨0x75A48A19, 0xD4CBE100, 0x644E8AC1, 0x397EEA74, 0x7A2D33AB⟩ := by
  have hlen : s.len.toNat = 20 := by
    have h : min s.len.toNat 64 = 20 := by simpa [keyBytes, exampleKey] using congrArg List.length hkey
    omega
  rw [stateHmac, keyBlock, message, hkey, hctr, hlen]
  exact hmacSha1_exampleKey

/-- Settles O51: the sealed key's block is the key store, and the key of the example has one digest. -/
theorem hmacWritesTheDigest : Obligations.HmacWritesTheDigest := by
  refine ⟨fun v => decode_eq_ok_iff v .hmac, fun s hk hl hz => ?_, fun s hk => exec_hmac_not_valid hk,
    fun s s' j => exec_hmac_trailing_zeros, fun s hk hctr hkey => ?_⟩
  · refine ⟨hmacBody s, exec_hmac_valid hk, rfl, keyBytes_eq_map hl, keyBlock_eq_secret hz, ?_⟩
    rw [hmacBody_digest_toList, keyBlock_eq_secret hz, message]
  · refine ⟨hmacBody s, exec_hmac_valid hk, ?_⟩
    simp only [regValue_digest_hmacBody, stateHmac_exampleKey hkey hctr]
    exact packWord_digestBytes _

end Sys2Proof.Machine
end

section
/-! PROOFS. Truncation (42_truncation.md R170 to R176): the window of the digest and its number, the two commands that
truncate, and the range of their codes. -/

namespace Sys2Proof.Machine

/-! The window of the digest and its number -/

theorem truncOffset_toNat (d : Vector Byte 20) : (truncOffset d).toNat = d[19].toNat % 16 := by
  have hmask : (d[19] &&& 0x0F#8).toNat = d[19].toNat % 16 := Nat.and_two_pow_sub_one_eq_mod d[19].toNat 4
  rw [truncOffset, BitVec.toNat_setWidth, hmask, Nat.mod_mod]

/-- The packed word as a number: b0 counts 2^24 (00_scope.md R14). -/
theorem be32_toNat (b0 b1 b2 b3 : Byte) :
    (be32 b0 b1 b2 b3).toNat = b0.toNat * 2 ^ 24 + b1.toNat * 2 ^ 16 + b2.toNat * 2 ^ 8 + b3.toNat := by
  have happend {n : Nat} (x : BitVec n) (b : Byte) : (x ++ b).toNat = x.toNat * 2 ^ 8 + b.toNat := by
    rw [BitVec.toNat_append, ← Nat.shiftLeft_add_eq_or_of_lt b.isLt, Nat.shiftLeft_eq]
  rw [be32, happend, happend, happend]
  ring

/-- The first byte's mask leaves 31 bits, so none is lost (42_truncation.md R171, R172). -/
theorem truncBin_toNat (d : Vector Byte 20) :
    (truncBin d).toNat = (windowByte d 0).toNat % 128 * 2 ^ 24 + (windowByte d 1).toNat * 2 ^ 16 +
      (windowByte d 2).toNat * 2 ^ 8 + (windowByte d 3).toNat := by
  have hmask : (windowByte d 0 &&& 0x7F#8).toNat = (windowByte d 0).toNat % 128 :=
    Nat.and_two_pow_sub_one_eq_mod (windowByte d 0).toNat 7
  rw [truncBin, BitVec.toNat_setWidth, be32_toNat, hmask, Nat.mod_eq_of_lt]
  have h1 := (windowByte d 1).isLt
  have h2 := (windowByte d 2).isLt
  have h3 := (windowByte d 3).isLt
  omega

/-- The remainder by 1000000 is the rule's range (42_truncation.md R176). -/
theorem truncCode_le (d : Vector Byte 20) : (truncCode d).toNat ≤ 999999 := by
  rw [truncCode_toNat]
  omega

/-! TRUNC -/

theorem exec_trunc (s : State) : exec .trunc s = .next (truncBody s) := rfl

/-- Every code of TRUNC is in the rule's range (42_truncation.md R176). -/
theorem exec_trunc_code_le {s t : State} (h : exec .trunc s = .next t) : t.code.toNat ≤ 999999 := by
  cases h
  exact truncCode_le s.digest

/-- What TRUNC leaves of a digest of known truncation. -/
theorem exec_trunc_of_digest {s : State} {d : Vector Byte 20} (hd : s.digest = d) :
    ∃ t, exec .trunc s = .next t ∧ t.toff = truncOffset d ∧ t.tbin = truncBin d ∧ t.code = truncCode d :=
  ⟨_, exec_trunc s, by simp [hd]⟩

/-- Settles O53: the offset, the number and the code of the digest, which the examples compute. -/
theorem truncTruncatesTheDigest : Obligations.TruncTruncatesTheDigest := by
  refine ⟨fun v => decode_eq_ok_iff v .trunc, fun s => ?_, fun s hb => issue_busy (by decide) hb, fun s hd => ?_,
    fun s hd => ?_⟩
  · have hoff := (truncOffset s.digest).isLt
    refine ⟨truncBody s, exec_trunc s, rfl, truncOffset_toNat s.digest, Nat.add_le_add_right (Nat.le_of_lt_succ hoff) 3,
      fun d hd => ?_, truncCode_toNat s.digest⟩
    have hwindow (i : Fin 4) : (windowByte s.digest i).toNat = d ((truncOffset s.digest).toNat + i.val) :=
      (hd ⟨_, by omega⟩).symm
    have hbin := truncBin_toNat s.digest
    simp only [hwindow] at hbin
    exact hbin
  · exact exec_trunc_of_digest hd
  · exact exec_trunc_of_digest hd

/-! TOTP -/

/-- With a sealed key TOTP is TRUNC after HMAC's body (42_truncation.md R175). -/
theorem exec_totp_valid {s : State} (hk : s.kstate = .valid) : exec .totp s = exec .trunc (hmacBody s) :=
  if_neg (not_not.2 hk)

theorem exec_totp_not_valid {s : State} (hk : s.kstate ≠ .valid) : exec .totp s = .next (raiseErr .keyNotReady s) :=
  if_pos hk

/-- The digest of the rule's example as the register holds it (42_truncation.md R175). -/
theorem digestOf_exampleDigest : digestOf (digestBytes ⟨0x75A48A19, 0xD4CBE100, 0x644E8AC1, 0x397EEA74, 0x7A2D33AB⟩) =
    #v[0x75, 0xA4, 0x8A, 0x19, 0xD4, 0xCB, 0xE1, 0x00, 0x64, 0x4E, 0x8A, 0xC1, 0x39, 0x7E, 0xEA, 0x74,
      0x7A, 0x2D, 0x33, 0xAB] :=
  Vector.toList_inj.1 (digestOf_toList rfl)

/-- Settles O54: TOTP is TRUNC of what HMAC leaves, and HMAC's example digest is known. -/
theorem totpIsHmacThenTrunc : Obligations.TotpIsHmacThenTrunc := by
  refine ⟨fun v => decode_eq_ok_iff v .totp, fun s hk => ?_, fun s hk => exec_totp_not_valid hk,
    fun s hk hctr hkey => ?_⟩
  · exact ⟨hmacBody s, truncBody (hmacBody s), exec_hmac_valid hk, exec_trunc _, exec_totp_valid hk, rfl⟩
  · rw [exec_totp_valid hk]
    refine exec_trunc_of_digest (Eq.trans ?_ digestOf_exampleDigest)
    rw [hmacBody_digest, stateHmac_exampleKey hkey hctr]

/-! The codes -/

/-- Settles O55: a code is a remainder, or without a sealed key the one before; TOTP's digest is a function of the key
block and the counter. -/
theorem codesAreInRangeAndDeterministic : Obligations.CodesAreInRangeAndDeterministic := by
  have hsealed {s t : State} (hk : s.kstate = .valid) (h : exec .totp s = .next t) : t.code.toNat ≤ 999999 :=
    exec_trunc_code_le ((exec_totp_valid hk).symm.trans h)
  refine ⟨fun s t => exec_trunc_code_le, fun s t => hsealed, fun s t hcode h => ?_,
    fun s s' hk hk' hl hl' hkey hctr => ?_⟩
  · by_cases hk : s.kstate = .valid
    · exact hsealed hk h
    · cases (exec_totp_not_valid hk).symm.trans h
      exact code_le_of_codeOfBin hcode
  · have hblock : keyBlock s = keyBlock s' :=
      (keyBlock_trailing_zeros (j := 0) hl hl' (hkey.symm.trans (List.append_nil _).symm)).symm
    refine ⟨truncBody (hmacBody s), truncBody (hmacBody s'), exec_totp_valid hk, exec_totp_valid hk', ?_⟩
    simp only [truncBody_code, hmacBody_digest, stateHmac_congr hblock hctr]

end Sys2Proof.Machine
end

section
/-! PROOFS. The two commands that are performed at their issue, SRESET and NOP (43_control.md R190, R191). -/

namespace Sys2Proof.Machine

/-! SRESET -/

theorem exec_sreset (s : State) : exec .sreset s = .next (blockReset s) := rfl

/-- A word with opcode 0x0F that is not SRESET's has a bit set in RSVD or DATA, so it is refused (30_encoding.md R85). -/
theorem decode_isError_of_sresetOpcode {v : Word} (ho : opField v = 0x0F) (hv : v ≠ 0x0000000F) :
    ∃ e, decode v = .error e := by
  rw [decode_isError_iff, ho]
  by_cases hr : rsvdField v = 0
  · refine .inr (.inl ⟨by decide, fun hd => hv ?_⟩)
    rw [word_eq_fields v, hr, hd, ho]
    rfl
  · exact .inl hr

/-- Settles O14: SRESET's word is tested for before BUSY, and the other words of its opcode are illegal (O3). -/
theorem sresetAtAnyTime : Obligations.SresetAtAnyTime :=
  ⟨fun v => decode_eq_ok_iff v .sreset, fun s => ⟨_, issue_sreset s, exec_sreset s, blockReset_blockIsReset s⟩,
    fun v s ho hv => (illegalWordsAreExact v).2 (decode_isError_of_sresetOpcode ho hv) s⟩

/-! NOP -/

theorem exec_nop (s : State) : exec .nop s = .next s := rfl

/-- Settles O15: while idle NOP is performed by `exec`, which changes nothing; while busy its word is any word but
SRESET's. -/
theorem nopDoesNothing : Obligations.NopDoesNothing := by
  refine ⟨fun v => decode_eq_ok_iff v .nop, exec_nop, fun s hb => ?_, fun s hb => issue_busy (by decide) hb,
    fun s hb => issue_illegal_idle (e := .dataNotZero) rfl hb⟩
  calc issue 0x00000000 s = issueDecoded .nop s := issue_idle hb rfl
    _ = exec .nop s := issueDecoded_immediate rfl s
    _ = .next s := exec_nop s

end Sys2Proof.Machine
end

section
/-! PROOFS. The errors (60_exceptions.md R200, R201, R210, R211): what a raise changes, which error each command
raises and when, and the one outcome of a write of CMD. -/

namespace Sys2Proof.Machine

/-! Raising an error -/

/-- Bit n of an error's mask is set for the error's own code alone (60_exceptions.md R201). -/
theorem ErrBit.getLsbD_mask (e : ErrBit) {n : Nat} (hn : n < 6) : e.mask.getLsbD n = decide (n = e.causeCode) := by
  rw [ErrBit.mask, BitVec.getLsbD_shiftLeft, BitVec.getLsbD_one, Bool.eq_iff_iff]
  simp only [Bool.and_eq_true, Bool.not_eq_true', decide_eq_true_eq, decide_eq_false_iff_not]
  omega

/-- Settles O16: a raise is the union of ERR with the error's one bit. -/
theorem raiseSetsOneBit : Obligations.RaiseSetsOneBit := by
  refine ⟨fun e s => ⟨rfl, fun n hn => ?_, ?_⟩, rfl⟩
  · rw [raiseErr_err, BitVec.getLsbD_or, e.getLsbD_mask hn]
  · have herr : (s.err ||| e.mask) ||| e.mask = s.err ||| e.mask := by rw [BitVec.or_assoc, BitVec.or_self]
    exact congrArg (fun x => { s with err := x }) herr

/-! The error of each command -/

/-- Feeding a symbol raises BUFFER_OVERFLOW exactly where it fails the key (40_base32.md R104). -/
theorem feedSymbol_err {s : State} (hk : s.kstate = .loading) (m : BitVec 5) :
    (feedSymbol m s).err = if (feedSymbol m s).kstate = .failed then s.err ||| 0x02#6 else s.err := by
  rcases feedSymbol_cases m s with ⟨a, k, -, hf⟩ | ⟨a, k, out, -, -, hf⟩ | ⟨a, k, out, -, -, hf⟩ <;> rw [hf]
  · simp [hk]
  · rfl
  · simp [hk]

theorem exec_b32Char_loading_err {ch : Byte} {s t : State} (hk : s.kstate = .loading)
    (h : exec (.b32Char ch) s = .next t) : t.err = if t.kstate = .failed then s.err ||| 0x02#6 else s.err := by
  cases hm : b32val ch with
  | none =>
    cases (exec_b32Char_skips hk hm).symm.trans h
    simp [hk]
  | some m =>
    cases (exec_b32Char_feeds hk hm).symm.trans h
    exact feedSymbol_err hk m

theorem exec_b32End_loading_err {s t : State} (hk : s.kstate = .loading) (h : exec .b32End s = .next t) :
    t.err = if s.len = 0 then s.err ||| 0x01#6 else s.err := by
  by_cases hl : s.len = 0
  · cases (exec_b32End_empty hk (congrArg BitVec.toNat hl)).symm.trans h
    rw [if_pos hl]
    rfl
  · have hpos : 0 < s.len.toNat := Nat.pos_of_ne_zero fun h0 => hl (BitVec.eq_of_toNat_eq h0)
    cases (exec_b32End_seals hk hpos).symm.trans h
    rw [if_neg hl]
    rfl

/-- A command that tests for a sealed key raises KEY_NOT_READY without one, and nothing where its body, which leaves
`u`, raises nothing. -/
theorem exec_err_of_keyCheck {i : Instr} {s t u : State} (hvalid : s.kstate = .valid → exec i s = .next u)
    (hbody : u.err = s.err) (hnot : s.kstate ≠ .valid → exec i s = .next (raiseErr .keyNotReady s))
    (h : exec i s = .next t) : t.err = if s.kstate = .valid then s.err else s.err ||| 0x04#6 := by
  by_cases hk : s.kstate = .valid
  · cases (hvalid hk).symm.trans h
    rw [if_pos hk, hbody]
  · cases (hnot hk).symm.trans h
    rw [if_neg hk]
    rfl

/-- Settles O17: command by command, and by KSTATE where the command's rule tests it. -/
theorem commandRaisesAtMostOneError : Obligations.CommandRaisesAtMostOneError := by
  refine ⟨fun s t h => ?_, fun s t h => ?_,
    fun ch s t h => ⟨fun hk => ?_, fun hk => ?_, fun hk => exec_b32Char_loading_err hk h⟩,
    fun s t h => ⟨fun hk => ?_, fun hk => ?_, fun hk => exec_b32End_loading_err hk h⟩, fun i s t hi h => ?_⟩
  · cases (exec_trunc s).symm.trans h; rfl
  · cases (exec_keyclr s).symm.trans h; rfl
  · cases (exec_b32Char_valid hk ch).symm.trans h; rfl
  · cases (exec_b32Char_failed hk ch).symm.trans h; rfl
  · cases (exec_b32End_valid hk).symm.trans h; rfl
  · cases (exec_b32End_failed hk).symm.trans h; rfl
  · rcases hi with rfl | rfl
    · exact exec_err_of_keyCheck exec_hmac_valid (hmacBody_err s) exec_hmac_not_valid h
    · exact exec_err_of_keyCheck exec_totp_valid ((truncBody_err _).trans (hmacBody_err s)) exec_totp_not_valid h

/-! The outcome of a write of CMD -/

/-- A word whose command goes through PEND is neither SRESET's nor NOP's (20_memory.md R64). -/
theorem ne_of_decode_inFlight {v : Word} {c : Instr} (hd : decode v = .ok c) (hc : c.mayBeInFlight = true) :
    v ≠ 0x0000000F ∧ v ≠ 0x00000000 := by
  constructor
  · rintro rfl
    cases hd
    cases hc
  · rintro rfl
    cases hd
    cases hc

/-- Settles O19: the outcomes of `issue` are the rule's, and each excludes the tests before its own. -/
theorem commandWriteOutcome : Obligations.CommandWriteOutcome := by
  intro v s
  obtain ⟨t, ht⟩ := issue_next v (respond (.written 0x04) s)
  refine ⟨t, (memWrite_reg (accessTarget_offset .cmd) v s).trans ht, ?_⟩
  have hout := issue_cases ht
  rw [respond_busy, Bool.eq_false_iff] at hout
  rcases hout with
    ⟨hv, rfl⟩ | ⟨hv, hb, rfl⟩ | ⟨hb, ⟨e, hd⟩, rfl⟩ | ⟨hb, hd, rfl⟩ | ⟨hb, c, hd, hc, rfl⟩
  · rw [if_pos hv]
    exact blockReset_blockIsReset _
  · rw [if_neg hv, if_pos hb]
    rfl
  · have hillegal : (decode v).toOption = none := by rw [hd]; rfl
    rw [if_neg (decode_error_ne_sreset hd), if_neg hb, if_pos hillegal]
    rfl
  · have hv : v = 0x00000000 := (decode_eq_ok_iff v .nop).1 hd
    rw [hd, if_neg (by rw [hv]; decide), if_neg hb, if_neg nofun, if_pos hv]
    rfl
  · obtain ⟨hsreset, hnop⟩ := ne_of_decode_inFlight hd hc
    rw [if_neg hsreset, if_neg hb, hd, if_neg nofun, if_neg hnop]
    exact ⟨c, rfl, hc, rfl⟩

end Sys2Proof.Machine
end

section
/-! PROOFS. Runs and what the host sees of them (70_reset_and_hazards.md R241, R251): a final state rests, and each step
adds to the observation the value of the host's read, or nothing. -/

namespace Sys2Proof.Machine

/-! Final states -/

/-- Settles O12: the engine moves only while busy, and a host with no move left lets time pass (log 13). -/
theorem finalStateRests : Obligations.FinalStateRests := by
  constructor
  · rintro s ⟨hops, hb⟩
    have hm := engineMoves_idle hb
    exact ⟨hm, _, step_noMove hm hops, rfl, rfl, hb⟩
  · rintro s hb ⟨-, hidle⟩
    cases hb.symm.trans hidle

/-! The observation after one more response -/

/-- No read returned a value between the two states, and no check failed. -/
structure State.KeepsObservation (s t : State) : Prop where
  reads : t.readValues = s.readValues
  checks : t.checksPassed = s.checksPassed

theorem State.KeepsObservation.trans {s t u : State} (hst : s.KeepsObservation t) (htu : t.KeepsObservation u) :
    s.KeepsObservation u :=
  ⟨htu.reads.trans hst.reads, htu.checks.trans hst.checks⟩

/-- The observation is a function of the responses (log 4). -/
theorem State.KeepsObservation.of_obs {s t : State} (h : t.env.obs = s.env.obs) : s.KeepsObservation t :=
  ⟨by rw [State.readValues, h, State.readValues], by rw [State.checksPassed, h, State.checksPassed]⟩

section
variable {s t : State} {off : Nat} {v : Word}

theorem readValues_of_data (h : t.env.obs = .data off v :: s.env.obs) : t.readValues = s.readValues ++ [v] :=
  (State.KeepsObservation.of_obs (s := respond (.data off v) s) h).reads.trans (readValues_respond _ s)

theorem checksPassed_of_data (h : t.env.obs = .data off v :: s.env.obs) : t.checksPassed = s.checksPassed :=
  (State.KeepsObservation.of_obs (s := respond (.data off v) s) h).checks.trans (checksPassed_respond _ s)

theorem readValues_of_checked {e : Word} (h : t.env.obs = .checked off v e :: s.env.obs) :
    t.readValues = s.readValues ++ [v] :=
  (State.KeepsObservation.of_obs (s := respond (.checked off v e) s) h).reads.trans (readValues_respond _ s)

theorem checksPassed_of_checked {e : Word} (h : t.env.obs = .checked off v e :: s.env.obs) :
    t.checksPassed = true ↔ s.checksPassed = true ∧ v = e := by
  have hchecks : t.checksPassed = ((v == e) && s.checksPassed) :=
    (State.KeepsObservation.of_obs (s := respond (.checked off v e) s) h).checks.trans (checksPassed_respond _ s)
  rw [hchecks, Bool.and_eq_true, beq_iff_eq, and_comm]

end

theorem keepsObservation_written (off : Nat) (s : State) : s.KeepsObservation (respond (.written off) s) :=
  ⟨(readValues_respond _ s).trans (List.append_nil _), checksPassed_respond _ s⟩

theorem keepsObservation_busError (off : Nat) (s : State) : s.KeepsObservation (respond (.busError off) s) :=
  ⟨(readValues_respond _ s).trans (List.append_nil _), checksPassed_respond _ s⟩

theorem keepsObservation_notReached (off : Int) (s : State) : s.KeepsObservation (respond (.notReached off) s) :=
  ⟨(readValues_respond _ s).trans (List.append_nil _), checksPassed_respond _ s⟩

/-- An access that reaches no register gives the host no value (20_memory.md R51, R55; log 5). -/
theorem keepsObservation_accessError {off n : Nat} {r : Response} (h : accessTarget off n = .error r) (s : State) :
    s.KeepsObservation (respond r s) := by
  unfold accessTarget at h
  split at h
  · cases h; exact keepsObservation_notReached _ s
  · split at h
    · cases h
    · cases h; exact keepsObservation_busError _ s

/-! Reads -/

/-- A read is answered by the register at its offset, or gives no value where there is none (20_memory.md R54 to R56). -/
theorem memRead_cases (off n : Nat) (mk : Word → Response) (s : State) :
    (∃ r : Reg, r.offset = off ∧ n = 4 ∧ memRead off n mk s = answerRead r mk s) ∨
    ((¬ ∃ r : Reg, r.offset = off ∧ n = 4) ∧ s.KeepsObservation (memRead off n mk s)) := by
  cases ht : accessTarget off n with
  | ok r =>
    obtain ⟨hr, hn⟩ := offset_of_accessTarget ht
    exact .inl ⟨r, hr, hn, memRead_reg ht mk s⟩
  | error e =>
    refine .inr ⟨?_, ?_⟩
    · rintro ⟨r, rfl, rfl⟩
      cases (accessTarget_offset r).symm.trans ht
    · rw [memRead, ht]
      exact keepsObservation_accessError ht s

/-- A read at an address is answered by the register there, or gives no value where there is none (20_memory.md R51). -/
theorem busRead_cases (addr n : Nat) (s : State) :
    (∃ r : Reg, addr = Config.base + r.offset ∧ n = 4 ∧ busRead addr n s = answerRead r (.data r.offset) s) ∨
    ((¬ ∃ r : Reg, addr = Config.base + r.offset ∧ n = 4) ∧ s.KeepsObservation (busRead addr n s)) := by
  unfold busRead
  rcases windowOffset_cases addr with ⟨off, rfl, ho⟩ | ⟨hbelow, ho⟩ <;> rw [ho]
  · rcases memRead_cases off n (.data off) s with ⟨r, rfl, hn, hread⟩ | ⟨hnone, hkept⟩
    · exact .inl ⟨r, rfl, hn, hread⟩
    · exact .inr ⟨fun ⟨r, hr, hn⟩ => hnone ⟨r, (Nat.add_left_cancel hr).symm, hn⟩, hkept⟩
  · exact .inr ⟨fun ⟨r, hr, _⟩ => by omega, keepsObservation_notReached _ s⟩

/-- The read value does not depend on the moves and the time that are left. -/
theorem readValue_passTime (r : Reg) (rest : List HostOp) (s : State) :
    readValue r (passTime rest s) = readValue r s := by
  have hreg : regValue r (passTime rest s) = regValue r s := regValue_sameBlock rfl r
  rw [readValue_eq, readValue_eq, hreg]
  rfl

theorem answerRead_passTime_obs (r : Reg) (mk : Word → Response) (rest : List HostOp) (s : State) :
    (answerRead r mk (passTime rest s)).env.obs = mk (readValue r s) :: s.env.obs := by
  rw [answerRead_obs, readValue_passTime]
  rfl

theorem pollOnce_obs (s : State) :
    (pollOnce s).env.obs = (answerRead .status (.data Reg.status.offset) s).env.obs := by
  unfold pollOnce
  split <;> rfl

section
variable {s : State} {op : HostOp} {rest : List HostOp}

/-- On the host's turn a read that reaches a register is answered with its read value, and no element of the block
differs (20_memory.md R56). -/
theorem step_answersRead {r : Reg} {mk : Word → Response} (hm : engineMoves s = false) (ho : s.env.hostOps = op :: rest)
    (hop : performOp op (passTime rest s) = .next (answerRead r mk (passTime rest s))) :
    ∃ t, step s = .next t ∧ s.SameBlock t ∧ t.env.hostOps = rest ∧ t.env.obs = mk (readValue r s) :: s.env.obs := by
  obtain ⟨-, hops, -⟩ := answerRead_env r mk (passTime rest s)
  have hsame := State.SameBlock.trans (t := passTime rest s) rfl (answerRead_sameBlock r mk (passTime rest s))
  exact ⟨_, (step_hostMove hm ho).trans hop, hsame, hops, answerRead_passTime_obs r mk rest s⟩

/-- The step of POLL records the STATUS value it reads (30_encoding.md R89). -/
theorem step_poll_obs {t : State} (hm : engineMoves s = false) (ho : s.env.hostOps = .poll :: rest)
    (h : step s = .next t) : t.env.obs = .data Reg.status.offset (readValue .status s) :: s.env.obs := by
  cases (step_hostMove hm ho).symm.trans h
  rw [pollOnce_obs, answerRead_passTime_obs]

/-- On the host's turn a read at an offset that is no register's, or of another width, gives no value. -/
theorem step_read_noRegister {off n : Nat} (hm : engineMoves s = false) (ho : s.env.hostOps = .read off n :: rest)
    (hnone : ¬ ∃ r : Reg, r.offset = off ∧ n = 4) :
    ∃ t, step s = .next t ∧ s.SameBlock t ∧ s.KeepsObservation t := by
  refine ⟨_, step_hostMove hm ho, .trans (t := passTime rest s) rfl (memRead_sameBlock off n _ _), ?_⟩
  rcases memRead_cases off n (.data off) (passTime rest s) with ⟨r, hr, hn, -⟩ | ⟨-, hkept⟩
  · exact absurd ⟨r, hr, hn⟩ hnone
  · exact .trans (t := passTime rest s) ⟨rfl, rfl⟩ hkept

/-- On the host's turn a read at an address gives the value of the register there, or none where there is none. -/
theorem step_readAt {addr n : Nat} (hm : engineMoves s = false) (ho : s.env.hostOps = .readAt addr n :: rest) :
    ∃ t, step s = .next t ∧ s.SameBlock t ∧
      ((∃ r : Reg, addr = Config.base + r.offset ∧ n = 4 ∧
          t.env.obs = .data r.offset (readValue r s) :: s.env.obs) ∨
        ((¬ ∃ r : Reg, addr = Config.base + r.offset ∧ n = 4) ∧ s.KeepsObservation t)) := by
  refine ⟨_, step_hostMove hm ho, .trans (t := passTime rest s) rfl (busRead_sameBlock addr n _), ?_⟩
  rcases busRead_cases addr n (passTime rest s) with ⟨r, hr, hn, hread⟩ | ⟨hnone, hkept⟩
  · exact .inl ⟨r, hr, hn, by rw [hread, answerRead_passTime_obs]⟩
  · exact .inr ⟨hnone, .trans (t := passTime rest s) ⟨rfl, rfl⟩ hkept⟩

end

/-! Writes, resets and the engine's turn -/

theorem issue_obs {v : Word} {s t : State} (h : issue v s = .next t) : t.env.obs = s.env.obs := by
  rcases issue_cases h with ⟨-, rfl⟩ | ⟨-, -, rfl⟩ | ⟨-, -, rfl⟩ | ⟨-, -, rfl⟩ | ⟨-, c, -, -, rfl⟩ <;> rfl

theorem guardedWrite_env {f : State → State} {s : State} (hf : (f s).env = s.env) : (guardedWrite f s).env = s.env := by
  rcases guardedWrite_cases f s with ⟨-, hg⟩ | ⟨-, hg⟩ <;> rw [hg]
  · exact raiseErr_env _ s
  · exact hf

theorem writeReg_obs {r : Reg} {v : Word} {s t : State} (h : writeReg r v s = .next t) : t.env.obs = s.env.obs := by
  cases r with
  | cmd => exact issue_obs h
  | err => cases h; rw [guardedWrite_env (clearErr_env v s)]
  | ctrLo => cases h; rw [guardedWrite_env (setCtrLo_env v s)]
  | ctrHi => cases h; rw [guardedWrite_env (setCtrHi_env v s)]
  | digest k => cases h; rw [guardedWrite_env (setDigestWord_env k v s)]
  | id | status | toff | tbin | code | reserved _ | key _ => cases h; rfl

theorem memWrite_keepsObservation {off n : Nat} {v : Word} {s t : State} (h : memWrite off n v s = .next t) :
    s.KeepsObservation t := by
  unfold memWrite at h
  split at h
  · cases h; exact keepsObservation_accessError ‹_› s
  · exact (keepsObservation_written off s).trans (.of_obs (writeReg_obs h))

theorem busWrite_keepsObservation {addr n : Nat} {v : Word} {s t : State} (h : busWrite addr n v s = .next t) :
    s.KeepsObservation t := by
  rcases busWrite_cases h with ⟨off, -, hw⟩ | ⟨-, rfl⟩
  · exact memWrite_keepsObservation hw
  · exact keepsObservation_notReached _ s

/-- No command answers the host. -/
theorem exec_obs {c : Instr} {s t : State} (h : exec c s = .next t) : t.env.obs = s.env.obs := by
  cases hc : c.mayBeInFlight with
  | true => rw [exec_inFlight_frame hc h]
  | false =>
    cases c with
    | nop | sreset => cases h; rfl
    | _ => cases hc

/-- The engine's turn gives the host nothing (20_memory.md R62). -/
theorem step_engine_keepsObservation {s t : State} (hm : engineMoves s = true) (h : step s = .next t) :
    s.KeepsObservation t := by
  rcases step_cases h with ⟨c, u, -, -, hu, rfl⟩ | ⟨hm', -, -⟩ | ⟨op, rest, hm', -, -⟩
  · have hobs := exec_obs hu
    exact .of_obs hobs
  · cases hm.symm.trans hm'
  · cases hm.symm.trans hm'

/-- A write, an idle move or a reset gives the host no value (70_reset_and_hazards.md R251). -/
theorem performOp_keepsObservation {op : HostOp} {s t : State}
    (hop : op = .idle ∨ op = .reset ∨ (∃ off n v, op = .write off n v) ∨ ∃ addr n v, op = .writeAt addr n v)
    (h : performOp op s = .next t) : s.KeepsObservation t := by
  rcases hop with rfl | rfl | ⟨off, n, v, rfl⟩ | ⟨addr, n, v, rfl⟩
  · cases h; exact ⟨rfl, rfl⟩
  · cases h; exact ⟨rfl, rfl⟩
  · exact memWrite_keepsObservation h
  · exact busWrite_keepsObservation h

/-- Settles O57: move by move, a read's response carries the value of the register it reaches, and every other response
carries none. -/
theorem observationIsTheValuesRead : Obligations.ObservationIsTheValuesRead := by
  refine ⟨fun s r rest hm ho => ?_, fun s r v rest hm ho => ?_, fun s rest hm ho => ?_, fun s off n rest hm ho h => ?_,
    fun s addr n rest hm ho => ?_, fun s t op rest hm ho hop h => ?_, fun s t hm h => ?_⟩
  · obtain ⟨t, hstep, hsame, hops, hobs⟩ :=
      step_answersRead hm ho (congrArg _ (memRead_reg (accessTarget_offset r) _ _))
    exact ⟨t, hstep, hsame, hops, readValues_of_data hobs, checksPassed_of_data hobs⟩
  · obtain ⟨t, hstep, hsame, hops, hobs⟩ :=
      step_answersRead hm ho (congrArg _ (memRead_reg (accessTarget_offset r) _ _))
    exact ⟨t, hstep, hsame, hops, readValues_of_checked hobs, checksPassed_of_checked hobs⟩
  · obtain ⟨t, hstep, hsame, -, hops⟩ := step_poll hm ho
    have hobs := step_poll_obs hm ho hstep
    exact ⟨t, hstep, hsame, hops, readValues_of_data hobs, checksPassed_of_data hobs⟩
  · have hnone : ¬ ∃ r : Reg, r.offset = off ∧ n = 4 := by
      rintro ⟨r, rfl, hn⟩
      obtain ⟨hal, hlt⟩ := r.offset_aligned
      exact h ⟨hlt, hn, hal⟩
    obtain ⟨t, hstep, hsame, hkept⟩ := step_read_noRegister hm ho hnone
    exact ⟨t, hstep, hsame, hkept.reads, hkept.checks⟩
  · obtain ⟨t, hstep, hsame, ⟨r, hr, hn, hobs⟩ | ⟨hnone, hkept⟩⟩ := step_readAt hm ho
    · refine ⟨t, hstep, hsame, checksPassed_of_data hobs, fun q hq _ => ?_, fun hnone => absurd ⟨r, hr, hn⟩ hnone⟩
      obtain rfl : r = q := Reg.offset_injective (Nat.add_left_cancel (hr.symm.trans hq))
      exact readValues_of_data hobs
    · exact ⟨t, hstep, hsame, hkept.checks, fun q hq hn => absurd ⟨q, hq, hn⟩ hnone, fun _ => hkept.reads⟩
  · have hkept : s.KeepsObservation t :=
      .trans (t := passTime rest s) ⟨rfl, rfl⟩ (performOp_keepsObservation hop ((step_hostMove hm ho).symm.trans h))
    exact ⟨hkept.reads, hkept.checks⟩
  · have hkept := step_engine_keepsObservation hm h
    exact ⟨hkept.reads, hkept.checks⟩

end Sys2Proof.Machine
end
